-- ==== Sys2Proof/Word.lean ====
section
/-! DEFINITION. The bit-vector types of the mighf CORE (00_scope.md R8, R11). -/

namespace Sys2Proof

/-- A register value or an immediate: an unsigned 32-bit value (R11, R30). -/
abbrev Word := BitVec 32

/-- A data-memory cell, an operand field or a character code: 8 bits (R11, R45, R83). -/
abbrev Byte := BitVec 8

/-- An instruction word: 64 bits (R80). -/
abbrev InstrWord := BitVec 64

end Sys2Proof
end

