-- ==== Sys2Proof/Config.lean ====
section
/-! DEFINITION. What an implementation fixes (00_scope.md R8, R9) and the free values: the parameters the
spec leaves to a model as arguments, and the opaque constants behind the values nobody states. -/

namespace Sys2Proof

/-- MEM_SIZE: data-memory cells (R8). -/
abbrev Config.memSize : Nat := 1024

/-- IS_CAP: instruction-store slots (R8). -/
abbrev Config.storeSlots : Nat := 1024

/-- NREG: general registers (R8). -/
abbrev Config.numRegs : Nat := 8

/-- XLEN: bits of a register; a shift by this many or more is the case of SHIFT_GE32 (R8, R157). -/
abbrev Config.wordBits : Nat := 32

/-- SHIFT_GE32: the result of LSL and LSR by 32 or more (R9, D7). -/
inductive ShiftGe32 where
  /-- The result is 0 (the default). -/
  | zero
  /-- The amount is taken modulo 32. -/
  | mask5
  /-- The result is an unconstrained 32-bit value. -/
  | draw
deriving DecidableEq, Repr

/-- PIXEL_SEL: how TDRAW_PIXEL treats a register selector of 8 or more (R9, D16, C3). -/
inductive PixelSel where
  /-- The selector is checked; 8 or more skips the instruction (the default). -/
  | check
  /-- The selector is taken modulo 8; the instruction is never skipped. -/
  | mask3
deriving DecidableEq, Repr

/-- IMM_OVERFLOW: the assembler's value for a decimal numeral outside the 32-bit range (R9, R97, D27). -/
inductive ImmOverflow where
  /-- The line is refused (the default of the parameter table of 92_eei_decisions.md). -/
  | refuse
  /-- The value is some function of the numeral, `Config.overflowValue`. -/
  | free
deriving DecidableEq, Repr

/-- The parameters a model takes as arguments (R9), with the spec's defaults. `tokenMax := none` is
TOKEN_MAX left OPEN: the bound is then `Config.openTokenMaxPred + 1`. -/
structure Params where
  shiftGe32 : ShiftGe32 := .zero
  pixelSel : PixelSel := .check
  tokenMax : Option Nat := none
  immOverflow : ImmOverflow := .refuse
deriving DecidableEq, Repr

/-- FREE VALUE (DESIGN CHOICE, log 2): the word the n-th draw gives under SHIFT_GE32 = `draw` (R157, R158:
"an unconstrained 32-bit value"). No body: nothing can be proved of it. -/
opaque Config.freeWord : Nat → Word

/-- FREE VALUE (DESIGN CHOICE, log 12): the word an overflowing numeral assembles to, from its sign and its
magnitude, under IMM_OVERFLOW = `free` (R97, D27). -/
opaque Config.overflowValue : Bool → Nat → Word

/-- FREE VALUE (DESIGN CHOICE, log 11): one less than the token bound while TOKEN_MAX is OPEN (R92, D29). -/
opaque Config.openTokenMaxPred : Nat

end Sys2Proof
end

