-- ==== Sys2Proof/Syntax.lean ====
section
/-! DEFINITION. The instructions of the mighf CORE: the closed enumeration of opcodes (30_encoding.md R86) and one
constructor of `Instr` per row of spec/opcode_table.json, with exactly the operand fields that row uses. -/

namespace Sys2Proof

/-- The closed enumeration of 23 opcodes, in the order of R86 (conflict C1 settles the count). -/
inductive Opcode where
  | nop | mov | add | sub | load | store | jmp | cmp | je | halt | and | orr | eor | lsl | lsr | mul | udiv | neg
  | movz | movn | print | tdrawClear | tdrawPixel
deriving DecidableEq, Repr

/-- An instruction. Register operands are the raw 8-bit fields 0..255, since an index of 8 or more is a legal
encoding that executes as a no-op (R83); `imm` is the whole 32-bit immediate (R84). A field that the opcode does
not use is not kept (R82: ignored whatever it holds). -/
inductive Instr where
  /-- NOP: no operation (R191). -/
  | nop
  /-- MOV: `x[rd] <- imm` (R140). -/
  | mov (rd : Byte) (imm : Word)
  /-- ADD: `x[rd] <- x[rd] + x[rs]` (R152). -/
  | add (rd rs : Byte)
  /-- SUB: `x[rd] <- x[rd] - x[rs]` (R153). -/
  | sub (rd rs : Byte)
  /-- LOAD: one byte, zero-extended (R170). -/
  | load (rd : Byte) (addr : Word)
  /-- STORE: the low byte of a register (R171). -/
  | store (rs : Byte) (addr : Word)
  /-- JMP: unconditional jump to an absolute index (R182). -/
  | jmp (target : Word)
  /-- CMP: equality into the zero flag (R181). -/
  | cmp (ra rb : Byte)
  /-- JE: jump if the zero flag is set (R183). -/
  | je (target : Word)
  /-- HALT: stop the run (R192). -/
  | halt
  /-- AND: bitwise AND (R154). -/
  | and (rd rs : Byte)
  /-- ORR: bitwise inclusive OR (R155). -/
  | orr (rd rs : Byte)
  /-- EOR: bitwise exclusive OR (R156). -/
  | eor (rd rs : Byte)
  /-- LSL: logical shift left by an immediate (R157). -/
  | lsl (rd : Byte) (amount : Word)
  /-- LSR: logical shift right by an immediate (R158). -/
  | lsr (rd : Byte) (amount : Word)
  /-- MUL: the low 32 bits of the product (R159). -/
  | mul (rd rs : Byte)
  /-- UDIV: unsigned quotient (R160). -/
  | udiv (rd rs : Byte)
  /-- NEG: two's-complement negation (R161). -/
  | neg (rd : Byte)
  /-- MOVZ: the low 16 bits of the immediate, zero-extended (R141). -/
  | movz (rd : Byte) (imm : Word)
  /-- MOVN: the complement of the immediate (R142). -/
  | movn (rd : Byte) (imm : Word)
  /-- PRINT: `mode` is the r1 field, `index` the immediate (R193). -/
  | print (mode : Byte) (index : Word)
  /-- TDRAW_CLEAR: emit the clear event (R194). -/
  | tdrawClear
  /-- TDRAW_PIXEL: the three packed fields of the immediate (R85, R195). -/
  | tdrawPixel (xsel ysel ch : Byte)
deriving DecidableEq, Repr

/-- The opcode of an instruction. -/
def Instr.opcode : Instr → Opcode
  | .nop => .nop
  | .mov _ _ => .mov
  | .add _ _ => .add
  | .sub _ _ => .sub
  | .load _ _ => .load
  | .store _ _ => .store
  | .jmp _ => .jmp
  | .cmp _ _ => .cmp
  | .je _ => .je
  | .halt => .halt
  | .and _ _ => .and
  | .orr _ _ => .orr
  | .eor _ _ => .eor
  | .lsl _ _ => .lsl
  | .lsr _ _ => .lsr
  | .mul _ _ => .mul
  | .udiv _ _ => .udiv
  | .neg _ => .neg
  | .movz _ _ => .movz
  | .movn _ _ => .movn
  | .print _ _ => .print
  | .tdrawClear => .tdrawClear
  | .tdrawPixel _ _ _ => .tdrawPixel

end Sys2Proof
end

