-- ==== Sys2Proof/WellFormed.lean ====
section
/-! DEFINITION. Well-formedness of an instruction: the part of the guard policy (40_step.md R125) that can be read from
the instruction alone. It is NOT a condition of decoding: every `Instr` term has an encoding and decodes (R83, R89), and
an instruction that is not well-formed executes as a no-op (log 9). -/

namespace Sys2Proof

/-- The register indices an instruction uses, in the order in which R129 checks them. -/
def Instr.registerIndices : Instr → List Nat
  | .nop => []
  | .mov rd _ => [rd.toNat]
  | .add rd rs => [rd.toNat, rs.toNat]
  | .sub rd rs => [rd.toNat, rs.toNat]
  | .load rd _ => [rd.toNat]
  | .store rs _ => [rs.toNat]
  | .jmp _ => []
  | .cmp ra rb => [ra.toNat, rb.toNat]
  | .je _ => []
  | .halt => []
  | .and rd rs => [rd.toNat, rs.toNat]
  | .orr rd rs => [rd.toNat, rs.toNat]
  | .eor rd rs => [rd.toNat, rs.toNat]
  | .lsl rd _ => [rd.toNat]
  | .lsr rd _ => [rd.toNat]
  | .mul rd rs => [rd.toNat, rs.toNat]
  | .udiv rd rs => [rd.toNat, rs.toNat]
  | .neg rd => [rd.toNat]
  | .movz rd _ => [rd.toNat]
  | .movn rd _ => [rd.toNat]
  | .print mode index => if mode = 0 then [index.toNat] else []
  | .tdrawClear => []
  | .tdrawPixel xsel ysel _ => [xsel.toNat, ysel.toNat]

/-- The data address an instruction uses (R61). -/
def Instr.dataAddress : Instr → Option Nat
  | .load _ addr => some addr.toNat
  | .store _ addr => some addr.toNat
  | .print mode index => if mode = 1 then some index.toNat else none
  | .nop | .mov _ _ | .add _ _ | .sub _ _ | .jmp _ | .cmp _ _ | .je _ | .halt | .and _ _ | .orr _ _ | .eor _ _
  | .lsl _ _ | .lsr _ _ | .mul _ _ | .udiv _ _ | .neg _ | .movz _ _ | .movn _ _ | .tdrawClear
  | .tdrawPixel _ _ _ => none

/-- The jump target an instruction uses (R180). -/
def Instr.jumpTarget : Instr → Option Nat
  | .jmp target => some target.toNat
  | .je target => some target.toNat
  | .nop | .mov _ _ | .add _ _ | .sub _ _ | .load _ _ | .store _ _ | .cmp _ _ | .halt | .and _ _ | .orr _ _
  | .eor _ _ | .lsl _ _ | .lsr _ _ | .mul _ _ | .udiv _ _ | .neg _ | .movz _ _ | .movn _ _ | .print _ _
  | .tdrawClear | .tdrawPixel _ _ _ => none

/-- PRINT's mode is 0 or 1 (R193); every other instruction has no mode. -/
def Instr.modeOk : Instr → Bool
  | .print mode _ => mode = 0 || mode = 1
  | .nop | .mov _ _ | .add _ _ | .sub _ _ | .load _ _ | .store _ _ | .jmp _ | .cmp _ _ | .je _ | .halt | .and _ _
  | .orr _ _ | .eor _ _ | .lsl _ _ | .lsr _ _ | .mul _ _ | .udiv _ _ | .neg _ | .movz _ _ | .movn _ _ | .tdrawClear
  | .tdrawPixel _ _ _ => true

/-- The conditions of R125 that the instruction itself decides: PRINT's mode, every register index below 8, the data
address and the jump target below 1024. -/
def Instr.wellFormed (i : Instr) : Bool :=
  i.modeOk && i.registerIndices.all (fun n => n < Config.numRegs)
    && i.dataAddress.all (fun a => a < Config.memSize)
    && i.jumpTarget.all (fun t => t < Config.storeSlots)

end Sys2Proof
end

