-- ==== Sys2Proof/Decode.lean ====
section
/-! DEFINITION. Decoding and encoding (30_encoding.md R80 to R90): the opcode map, a decoder total on every 64-bit word
that rejects an undefined opcode by name, the encoder, and the little-endian byte layout a tool uses (20_memory.md R64). -/

namespace Sys2Proof

/-- Why a word, or a list of bytes, is not an instruction. -/
inductive DecodeError where
  /-- The opcode field holds 23..255 (R88). -/
  | illegalOpcode (op : Byte)
  /-- Fewer than the eight bytes of a word remain (R80: every instruction is one word). -/
  | truncated
deriving DecidableEq, Repr

/-- The opcode map of R86: each defined value with its operation. -/
def opcodeMap : List (Byte × Opcode) :=
  [(0, .nop), (1, .mov), (2, .add), (3, .sub), (4, .load), (5, .store), (6, .jmp), (7, .cmp), (8, .je), (9, .halt),
   (10, .and), (11, .orr), (12, .eor), (13, .lsl), (14, .lsr), (15, .mul), (16, .udiv), (17, .neg), (18, .movz),
   (19, .movn), (20, .print), (21, .tdrawClear), (22, .tdrawPixel)]

/-- The operation an opcode value selects in a list of rows, if any. -/
def findOpcode (op : Byte) : List (Byte × Opcode) → Option Opcode
  | [] => none
  | (v, o) :: rows => if op = v then some o else findOpcode op rows

/-- The operation an opcode value selects; none for the reserved values 23..255 (R88). -/
def Opcode.ofByte (op : Byte) : Option Opcode := findOpcode op opcodeMap

/-- The value of an opcode (R86). -/
def Opcode.toByte : Opcode → Byte
  | .nop => 0
  | .mov => 1
  | .add => 2
  | .sub => 3
  | .load => 4
  | .store => 5
  | .jmp => 6
  | .cmp => 7
  | .je => 8
  | .halt => 9
  | .and => 10
  | .orr => 11
  | .eor => 12
  | .lsl => 13
  | .lsr => 14
  | .mul => 15
  | .udiv => 16
  | .neg => 17
  | .movz => 18
  | .movn => 19
  | .print => 20
  | .tdrawClear => 21
  | .tdrawPixel => 22

/-- `opcode = word[7:0]` (R81). -/
def wordOpcode (w : InstrWord) : Byte := w.extractLsb' 0 8

/-- `r1 = word[15:8]` (R81). -/
def wordR1 (w : InstrWord) : Byte := w.extractLsb' 8 8

/-- `r2 = word[23:16]` (R81). -/
def wordR2 (w : InstrWord) : Byte := w.extractLsb' 16 8

/-- `imm = word[63:32]` (R81, R84). -/
def wordImm (w : InstrWord) : Word := w.extractLsb' 32 32

/-- `xsel = imm[7:0]` (R85). -/
def immXsel (imm : Word) : Byte := imm.extractLsb' 0 8

/-- `ysel = imm[15:8]` (R85). -/
def immYsel (imm : Word) : Byte := imm.extractLsb' 8 8

/-- `ch = imm[23:16]` (R85). -/
def immCh (imm : Word) : Byte := imm.extractLsb' 16 8

/-- The instruction of a defined opcode with the fields of its word (R82). -/
def buildInstr (o : Opcode) (r1 r2 : Byte) (imm : Word) : Instr :=
  match o with
  | .nop => .nop
  | .mov => .mov r1 imm
  | .add => .add r1 r2
  | .sub => .sub r1 r2
  | .load => .load r1 imm
  | .store => .store r1 imm
  | .jmp => .jmp imm
  | .cmp => .cmp r1 r2
  | .je => .je imm
  | .halt => .halt
  | .and => .and r1 r2
  | .orr => .orr r1 r2
  | .eor => .eor r1 r2
  | .lsl => .lsl r1 imm
  | .lsr => .lsr r1 imm
  | .mul => .mul r1 r2
  | .udiv => .udiv r1 r2
  | .neg => .neg r1
  | .movz => .movz r1 imm
  | .movn => .movn r1 imm
  | .print => .print r1 imm
  | .tdrawClear => .tdrawClear
  | .tdrawPixel => .tdrawPixel (immXsel imm) (immYsel imm) (immCh imm)

/-- Decode (R82, R122): the opcode field alone selects the operation, the fields pass unchanged, bits [31:24] and
unused fields are ignored, and no index or address is checked. -/
def decode (w : InstrWord) : Except DecodeError Instr :=
  match Opcode.ofByte (wordOpcode w) with
  | some o => .ok (buildInstr o (wordR1 w) (wordR2 w) (wordImm w))
  | none => .error (.illegalOpcode (wordOpcode w))

/-- The word with the given fields and 0 in the reserved byte (R81): `imm << 32 | r2 << 16 | r1 << 8 | opcode`. -/
def packWord (opcode r1 r2 : Byte) (imm : Word) : InstrWord :=
  imm.setWidth 64 <<< 32 ||| r2.setWidth 64 <<< 16 ||| r1.setWidth 64 <<< 8 ||| opcode.setWidth 64

/-- The TDRAW_PIXEL immediate `xsel | (ysel << 8) | (ch << 16)`, bits [31:24] zero (R85, R99). -/
def packPixel (xsel ysel ch : Byte) : Word :=
  xsel.setWidth 32 ||| ysel.setWidth 32 <<< 8 ||| ch.setWidth 32 <<< 16

/-- The r1 field of an instruction's word, 0 where the row does not name it (R95). -/
def Instr.fieldR1 : Instr → Byte
  | .mov rd _ | .add rd _ | .sub rd _ | .load rd _ | .store rd _ | .cmp rd _ | .and rd _ | .orr rd _ | .eor rd _
  | .lsl rd _ | .lsr rd _ | .mul rd _ | .udiv rd _ | .neg rd | .movz rd _ | .movn rd _ | .print rd _ => rd
  | .nop | .jmp _ | .je _ | .halt | .tdrawClear | .tdrawPixel _ _ _ => 0

/-- The r2 field of an instruction's word, 0 where the row does not name it (R95). -/
def Instr.fieldR2 : Instr → Byte
  | .add _ rs | .sub _ rs | .cmp _ rs | .and _ rs | .orr _ rs | .eor _ rs | .mul _ rs | .udiv _ rs => rs
  | .nop | .mov _ _ | .load _ _ | .store _ _ | .jmp _ | .je _ | .halt | .lsl _ _ | .lsr _ _ | .neg _ | .movz _ _
  | .movn _ _ | .print _ _ | .tdrawClear | .tdrawPixel _ _ _ => 0

/-- The immediate field of an instruction's word, 0 where the row does not name it (R95). -/
def Instr.fieldImm : Instr → Word
  | .mov _ imm | .load _ imm | .store _ imm | .jmp imm | .je imm | .lsl _ imm | .lsr _ imm | .movz _ imm
  | .movn _ imm | .print _ imm => imm
  | .tdrawPixel xsel ysel ch => packPixel xsel ysel ch
  | .nop | .add _ _ | .sub _ _ | .cmp _ _ | .halt | .and _ _ | .orr _ _ | .eor _ _ | .mul _ _ | .udiv _ _ | .neg _
  | .tdrawClear => 0

/-- Encode (R81, R86, R95): the opcode's value, the fields the row names, 0 everywhere else. -/
def encode (i : Instr) : InstrWord := packWord i.opcode.toByte i.fieldR1 i.fieldR2 i.fieldImm

/-- Byte `k` of a word laid out by a tool holds bits `[8k+7:8k]` (R64, little-endian). -/
def wordByte (w : InstrWord) (k : Nat) : Byte := w.extractLsb' (8 * k) 8

/-- A word as the eight bytes of its little-endian layout (R64). -/
def bytesOfWord (w : InstrWord) : List Byte :=
  [wordByte w 0, wordByte w 1, wordByte w 2, wordByte w 3, wordByte w 4, wordByte w 5, wordByte w 6, wordByte w 7]

/-- The word eight little-endian bytes lay out (R64). -/
def wordOfBytes (b0 b1 b2 b3 b4 b5 b6 b7 : Byte) : InstrWord :=
  b0.setWidth 64 ||| b1.setWidth 64 <<< 8 ||| b2.setWidth 64 <<< 16 ||| b3.setWidth 64 <<< 24 |||
    b4.setWidth 64 <<< 32 ||| b5.setWidth 64 <<< 40 ||| b6.setWidth 64 <<< 48 ||| b7.setWidth 64 <<< 56

/-- Decode the first instruction of a list of bytes, with the bytes that follow it. -/
def decodeBytes : List Byte → Except DecodeError (Instr × List Byte)
  | b0 :: b1 :: b2 :: b3 :: b4 :: b5 :: b6 :: b7 :: rest =>
    match decode (wordOfBytes b0 b1 b2 b3 b4 b5 b6 b7) with
    | .ok i => .ok (i, rest)
    | .error e => .error e
  | _ => .error .truncated

/-- The word a table row's bits stand for: the low `nbits` bits of `w`, every bit above them 0. -/
def tableWord (nbits w : Nat) : InstrWord := BitVec.ofNat 64 (w % 2 ^ nbits)

/-- The instruction the decoder reads from an instruction whose bits are `w`, laid out as bytes (R64) and decoded;
none where the decoder refuses. -/
def decodeTableWord (nbits w : Nat) : Option Instr :=
  match decodeBytes (bytesOfWord (tableWord nbits w)) with
  | .ok (i, _) => some i
  | .error _ => none

end Sys2Proof
end

