-- ==== Sys2Proof/Machine/State.lean ====
section
/-! DEFINITION. The state of the mighf CORE as plain data (10_state.md R30 to R51), the outputs it records, the reasons a
step could stop, and the machine right after power-on (70_reset_and_hazards.md R240). -/

namespace Sys2Proof.Machine

/-- The two engine-level states (R42). -/
inductive Engine where
  | running
  | halted
deriving DecidableEq, Repr

/-- The status codes of R128, in the order of their numbers 0 to 6. -/
inductive Status where
  | ok
  | regRange
  | memRange
  | divZero
  | targetRange
  | modeInvalid
  | illegalOpcode
deriving DecidableEq, Repr

/-- An output event sent to the terminal output sink (45_system.md R190). -/
inductive Event where
  /-- PRINT mode 0: `PrintReg(idx, value)`. -/
  | printReg (idx : Fin 8) (value : Word)
  /-- PRINT mode 1: `PrintMem(idx, value)`. -/
  | printMem (idx : Fin 1024) (value : Byte)
  /-- TDRAW_CLEAR: `Clear`. -/
  | clear
  /-- TDRAW_PIXEL: `Pixel(xv, yv, ch)`. -/
  | pixel (xv yv : Word) (ch : Byte)
deriving DecidableEq, Repr

/-- The reasons for which the MODEL's step stops in a fault: there are none. R130: the step is total, and every
invalid condition is a no-op (R125) or the IllegalOpcode fault of R123, which is a next state with the fault flag set.
Safe: nothing is stopped (log 16). -/
inductive Fault where
deriving DecidableEq, Repr

/-- The reasons for which an instruction has no meaning in the model. -/
inductive Refusal where
  /-- Raised only by an arm of `exec` whose instruction has no meaning yet: there is none, so no step raises it. Safe. -/
  | notModelled (mnemonic : String)
deriving DecidableEq, Repr

/-- The machine's state. The first eight fields are the spec's (R240's table); `status` and `events` record its
outputs (R44, R190); `params` and `draws` are the model's own (log 1, 2). -/
@[ext]
structure State where
  /-- R0 to R7 (R30). -/
  regs : Vector Word 8
  /-- The program counter, an index of instruction slots (R35). -/
  pc : Word
  /-- The zero flag (R39). -/
  zf : Bool
  /-- The run flag (R41). -/
  running : Bool
  /-- The engine state (R42). -/
  engine : Engine
  /-- The fault flag (R43). -/
  fault : Bool
  /-- The data memory (R45) in canonical form: addresses rising, no zero byte listed, an unlisted cell reads 0. -/
  mem : List Host.Cell
  /-- The instruction store (R46) in the same form: an unlisted slot holds the all-zero word. -/
  istore : List (Nat × InstrWord)
  /-- The status output of the latest step (R128), none before the first. -/
  status : Option Status
  /-- The output trace, oldest event first (R190). -/
  events : List Event
  /-- The implementation parameters (R9); no step and no host command changes them. -/
  params : Params
  /-- How many free values have been drawn. -/
  draws : Nat
deriving DecidableEq, Repr

/-- The machine right after power-on: R240's table, with the spec's default parameters (R9). -/
def State.reset : State where
  regs := Vector.replicate 8 0
  pc := 0
  zf := false
  running := true
  engine := .halted
  fault := false
  mem := []
  istore := []
  status := none
  events := []
  params := {}
  draws := 0

end Sys2Proof.Machine
end

