-- ==== Sys2Proof/Machine/Ops.lean ====
section
/-! DEFINITION. The named operations over the machine's state: the sparse stores behind the data memory and the instruction
store, register and memory access, the shared end of every instruction (40_step.md R125 to R127), the IllegalOpcode fault
(R123) and the run start (70_reset_and_hazards.md R243). -/

namespace Sys2Proof.Machine

/-! Sparse stores: association lists in which an unlisted index reads 0 (R45, R46: zero at power-on). -/

/-- What index `a` of a store reads as. -/
def Sparse.get {w : Nat} : List (Nat × BitVec w) → Nat → BitVec w
  | [], _ => 0#w
  | (b, v) :: rest, a => if a = b then v else Sparse.get rest a

/-- The store without any entry for `a`. -/
def Sparse.erase {w : Nat} : List (Nat × BitVec w) → Nat → List (Nat × BitVec w)
  | [], _ => []
  | (b, v) :: rest, a => if a = b then Sparse.erase rest a else (b, v) :: Sparse.erase rest a

/-- The store with an entry for `a` placed before the first entry of a greater index. -/
def Sparse.insert {w : Nat} : List (Nat × BitVec w) → Nat → BitVec w → List (Nat × BitVec w)
  | [], a, v => [(a, v)]
  | (b, x) :: rest, a, v => if a < b then (a, v) :: (b, x) :: rest else (b, x) :: Sparse.insert rest a v

/-- The store after a write: writing 0, what an unlisted index reads as, leaves no entry. -/
def Sparse.set {w : Nat} (l : List (Nat × BitVec w)) (a : Nat) (v : BitVec w) : List (Nat × BitVec w) :=
  if v = 0#w then Sparse.erase l a else Sparse.insert (Sparse.erase l a) a v

/-- The store that holds a list of values from index `k` on. -/
def Sparse.ofList {w : Nat} : Nat → List (BitVec w) → List (Nat × BitVec w)
  | _, [] => []
  | k, v :: vs => if v = 0#w then Sparse.ofList (k + 1) vs else (k, v) :: Sparse.ofList (k + 1) vs

/-- Canonical form from index `lo` on: indices strictly rising, all below `size`, no zero value listed. -/
def Sparse.wfFrom {w : Nat} (size : Nat) : Nat → List (Nat × BitVec w) → Bool
  | _, [] => true
  | lo, (a, v) :: rest => lo ≤ a && a < size && v ≠ 0#w && Sparse.wfFrom size (a + 1) rest

/-- The canonical form of a data memory: equal memories are equal lists. -/
def Memory.wf (m : List Host.Cell) : Bool := Sparse.wfFrom Config.memSize 0 m

/-- The canonical form of an instruction store. -/
def InstrStore.wf (m : List (Nat × InstrWord)) : Bool := Sparse.wfFrom Config.storeSlots 0 m

/-! Reads. -/

/-- `x[i]` (R12): the value of register `i`. -/
def State.readReg (s : State) (i : Fin 8) : Word := s.regs[i]

/-- `MemRead(a, 1)` (R12): the byte of cell `a`; reading changes nothing (R66). -/
def State.readMem (s : State) (a : Nat) : Byte := Sparse.get s.mem a

/-- `IFetch(k)` (R12): the word of instruction-store slot `k`. -/
def State.readSlot (s : State) (k : Nat) : InstrWord := Sparse.get s.istore k

/-- Fetch at the pc, which is compared with the capacity first: none at 1024 and above (R37, R121). -/
def State.fetch? (s : State) : Option InstrWord :=
  if s.pc.toNat < Config.storeSlots then some (s.readSlot s.pc.toNat) else none

/-! Updates. -/

/-- `x[i] <- v` (R12). -/
def State.writeReg (s : State) (i : Fin 8) (v : Word) : State := { s with regs := s.regs.set i v }

/-- `MemWrite(a, 1, v)` (R12). -/
def State.writeMem (s : State) (a : Nat) (v : Byte) : State := { s with mem := Sparse.set s.mem a v }

/-- `IFetch(k)`'s store after a word is placed in slot `k`; no instruction does this (R46, R72). -/
def State.writeSlot (s : State) (k : Nat) (v : InstrWord) : State := { s with istore := Sparse.set s.istore k v }

/-- `pc <- v`. -/
def State.setPc (s : State) (v : Word) : State := { s with pc := v }

/-- `zf <- b`. -/
def State.setZf (s : State) (b : Bool) : State := { s with zf := b }

/-- `running <- b`. -/
def State.setRunning (s : State) (b : Bool) : State := { s with running := b }

/-- `engine <- e`. -/
def State.setEngine (s : State) (e : Engine) : State := { s with engine := e }

/-- `fault <- b`. -/
def State.setFault (s : State) (b : Bool) : State := { s with fault := b }

/-- The status output of the step (R128). -/
def State.report (s : State) (c : Status) : State := { s with status := some c }

/-- `Emit(e)` (R12, R190): the event joins the output trace. -/
def State.emit (s : State) (e : Event) : State := { s with events := s.events ++ [e] }

/-- One free value has been drawn (log 2). -/
def State.countDraw (s : State) : State := { s with draws := s.draws + 1 }

/-! The end of an instruction. -/

/-- The next-pc choice of an instruction (R126). -/
inductive NextPc where
  /-- HALT only: the pc is unchanged. -/
  | stop
  /-- A taken JMP or JE. -/
  | jump (target : Word)
  /-- Every other case, skipped instructions included. -/
  | seq
deriving DecidableEq, Repr

/-- The pc update (R126). -/
def State.advance (s : State) : NextPc → State
  | .stop => s
  | .jump target => s.setPc target
  | .seq => s.setPc (s.pc + 1)

/-- Halt detection at the end of a step (R127): Halted if `running = 0` or `pc >= 1024`, else as it was. -/
def State.haltCheck (s : State) : State :=
  if s.running = true ∧ s.pc.toNat < Config.storeSlots then s else s.setEngine .halted

/-- The shared end of every instruction: pc update, halt detection, status (R126, R127, R128, R131). -/
def State.retire (s : State) (next : NextPc) (c : Status) : State := ((s.advance next).haltCheck).report c

/-- `skip(code)` (R12, R125): no effect, the status is `code`, the pc advances by 1. -/
def State.skip (s : State) (c : Status) : State := s.retire .seq c

/-- The number of a status code (R128). -/
def Status.code : Status → Nat
  | .ok => 0
  | .regRange => 1
  | .memRange => 2
  | .divZero => 3
  | .targetRange => 4
  | .modeInvalid => 5
  | .illegalOpcode => 6

/-! The one fault, and what leaves it. -/

/-- `raise IllegalOpcode` (R123): `fault <- 1`, `engine <- Halted`, status ILLEGAL_OPCODE; no register, cell, flag or
event, and the pc stays at the faulting word. The core takes no other exception (R210, R214). -/
def State.raiseIllegalOpcode (s : State) : State := ((s.setFault true).setEngine .halted).report .illegalOpcode

/-- The end of the store reached before a fetch: the engine halts instead of fetching, and nothing else changes (R37).
Only a state no run reaches gets here, since R127 halts the engine as soon as the pc is 1024 (log 6). -/
def State.haltAtEnd (s : State) : State := s.setEngine .halted

/-- Run start (R243): pc 0, running 1, fault 0, engine Running; registers, memory, zf and the instruction store stay.
There is no return from the fault but this (R215). -/
def State.runStart (s : State) : State :=
  (((s.setPc 0).setRunning true).setFault false).setEngine .running

/-- The instruction store filled with words: slots 0 to n-1 hold them in order, at most 1024, and every later slot the
all-zero word (R101, R244); nothing else changes. -/
def State.placeWords (s : State) (ws : List InstrWord) : State :=
  { s with istore := Sparse.ofList 0 (ws.take Config.storeSlots) }

end Sys2Proof.Machine
end

