-- ==== Sys2Proof/Machine/Operands.lean ====
section
/-! DEFINITION. The operand forms: a register index checked below 8 (10_state.md R32), a data address and a jump target
checked below 1024 (20_memory.md R63, 44_control.md R180), the 16-bit literal of MOVZ, and the result of a shift
(42_alu.md R157, R158). -/

namespace Sys2Proof.Machine

/-- A register index from an instruction: compared with 8 before use, none when out of range (R32, R125). -/
def regIndex? (n : Nat) : Option (Fin 8) := if h : n < Config.numRegs then some ⟨n, h⟩ else none

/-- A data address: the whole immediate, compared with 1024 before use and never reduced (R61, R63). -/
def memAddress? (imm : Word) : Option (Fin 1024) :=
  if h : imm.toNat < Config.memSize then some ⟨imm.toNat, h⟩ else none

/-- A jump target: the whole immediate, an absolute slot index compared with 1024 before use (R180). -/
def jumpTarget? (imm : Word) : Option Word := if imm.toNat < Config.storeSlots then some imm else none

/-- A register selector of TDRAW_PIXEL under PIXEL_SEL (R195): checked like any register index, or taken modulo 8. -/
def pixelReg? (sel : PixelSel) (field : Byte) : Option (Fin 8) :=
  match sel with
  | .check => regIndex? field.toNat
  | .mask3 => regIndex? (field.toNat % 8)

/-- MOVZ's literal: `imm[15:0]`, zero-extended (R141). -/
def literal16 (imm : Word) : Word := (imm.extractLsb' 0 16).setWidth 32

/-- STORE's value: the low byte of a register (R171). -/
def lowByte (v : Word) : Byte := v.extractLsb' 0 8

/-- LOAD's value: a byte zero-extended to 32 bits (R170). -/
def zeroExtendByte (b : Byte) : Word := b.setWidth 32

/-- `shl(v, s)` for an amount below 32 (R157). -/
def shiftLeft (v : Word) (n : Nat) : Word := v <<< n

/-- `shr(v, s)` for an amount below 32: logical (R158). -/
def shiftRight (v : Word) (n : Nat) : Word := v >>> n

/-- The result of a shift by the full 32-bit amount: below 32 the shift itself; from 32 on as SHIFT_GE32 says (R157,
R158, D7), where `draw` takes the state's next free value. -/
def shiftResult (shift : Word → Nat → Word) (v amount : Word) (s : State) : Word :=
  if amount.toNat < Config.wordBits then shift v amount.toNat
  else match s.params.shiftGe32 with
    | .zero => 0
    | .mask5 => shift v (amount.toNat % 32)
    | .draw => Config.freeWord s.draws

/-- The state after `shiftResult`: a drawn free value is counted, and nothing else changes. -/
def afterShift (amount : Word) (s : State) : State :=
  if amount.toNat < Config.wordBits then s
  else match s.params.shiftGe32 with
    | .zero => s
    | .mask5 => s
    | .draw => s.countDraw

end Sys2Proof.Machine
end

