-- ==== Sys2Proof/Machine/Alu.lean ====
section
/-! DEFINITION. The ALU instructions (42_alu.md R150 to R161). Arithmetic wraps modulo 2^32 (R150) and no ALU instruction
writes the zero flag (R151). -/

namespace Sys2Proof.Machine

/-- A two-register operation: `if r1 < 8 and r2 < 8 then x[r1] <- f x[r1] x[r2] else skip(REG_RANGE)`; both operands
are read before the write (R124). -/
def execBinary (f : Word → Word → Word) (rd rs : Byte) (s : State) : Host.Outcome State Fault Refusal :=
  match regIndex? rd.toNat, regIndex? rs.toNat with
  | some d, some b => .next ((s.writeReg d (f (s.readReg d) (s.readReg b))).retire .seq .ok)
  | _, _ => .next (s.skip .regRange)

/-- A shift by the immediate (R157, R158). -/
def execShift (shift : Word → Nat → Word) (rd : Byte) (amount : Word) (s : State) : Host.Outcome State Fault Refusal :=
  match regIndex? rd.toNat with
  | some d => .next (((afterShift amount s).writeReg d (shiftResult shift (s.readReg d) amount s)).retire .seq .ok)
  | none => .next (s.skip .regRange)

/-- ADD (R152): `x[r1] <- (x[r1] + x[r2]) mod 2^32`. -/
def execAdd (rd rs : Byte) (s : State) : Host.Outcome State Fault Refusal := execBinary (fun a b => a + b) rd rs s

/-- SUB (R153): `x[r1] <- (x[r1] - x[r2]) mod 2^32`. -/
def execSub (rd rs : Byte) (s : State) : Host.Outcome State Fault Refusal := execBinary (fun a b => a - b) rd rs s

/-- AND (R154): `x[r1] <- x[r1] & x[r2]`. -/
def execAnd (rd rs : Byte) (s : State) : Host.Outcome State Fault Refusal := execBinary (fun a b => a &&& b) rd rs s

/-- ORR (R155): `x[r1] <- x[r1] | x[r2]`. -/
def execOrr (rd rs : Byte) (s : State) : Host.Outcome State Fault Refusal := execBinary (fun a b => a ||| b) rd rs s

/-- EOR (R156): `x[r1] <- x[r1] ^ x[r2]`. -/
def execEor (rd rs : Byte) (s : State) : Host.Outcome State Fault Refusal := execBinary (fun a b => a ^^^ b) rd rs s

/-- LSL (R157): `x[r1] <- shl(x[r1], imm)`. -/
def execLsl (rd : Byte) (amount : Word) (s : State) : Host.Outcome State Fault Refusal :=
  execShift shiftLeft rd amount s

/-- LSR (R158): `x[r1] <- shr(x[r1], imm)`. -/
def execLsr (rd : Byte) (amount : Word) (s : State) : Host.Outcome State Fault Refusal :=
  execShift shiftRight rd amount s

/-- MUL (R159): `x[r1] <- (x[r1] * x[r2]) mod 2^32`; the high half is discarded. -/
def execMul (rd rs : Byte) (s : State) : Host.Outcome State Fault Refusal := execBinary (fun a b => a * b) rd rs s

/-- UDIV (R160): the register check comes first (R129), then `x[r2] = 0` is skip(DIV_ZERO), else
`x[r1] <- floor(x[r1] / x[r2])`. -/
def execUdiv (rd rs : Byte) (s : State) : Host.Outcome State Fault Refusal :=
  match regIndex? rd.toNat, regIndex? rs.toNat with
  | some d, some b =>
    if s.readReg b = 0 then .next (s.skip .divZero)
    else .next ((s.writeReg d (s.readReg d / s.readReg b)).retire .seq .ok)
  | _, _ => .next (s.skip .regRange)

/-- NEG (R161): `x[r1] <- (2^32 - x[r1]) mod 2^32`. -/
def execNeg (rd : Byte) (s : State) : Host.Outcome State Fault Refusal :=
  match regIndex? rd.toNat with
  | some d => .next ((s.writeReg d (-(s.readReg d))).retire .seq .ok)
  | none => .next (s.skip .regRange)

end Sys2Proof.Machine
end

