-- ==== Sys2Proof/Machine/Flags.lean ====
section
/-! DEFINITION. The one flag computation of the core: the zero-flag comparator (10_state.md R39, R49; 44_control.md R181).
No other instruction computes a flag (42_alu.md R151). -/

namespace Sys2Proof.Machine

/-- The zero flag after a comparison: 1 when the two values are equal, 0 when they differ (R181). -/
def zeroFlagOf (a b : Word) : Bool := decide (a = b)

end Sys2Proof.Machine
end

