-- ==== Sys2Proof/Machine/Control.lean ====
section
/-! DEFINITION. CMP, JMP and JE (44_control.md R180 to R183). -/

namespace Sys2Proof.Machine

/-- CMP (R181): `zf <- (x[r1] = x[r2]) ? 1 : 0`; with an index out of range zf keeps its value. -/
def execCmp (ra rb : Byte) (s : State) : Host.Outcome State Fault Refusal :=
  match regIndex? ra.toNat, regIndex? rb.toNat with
  | some a, some b => .next ((s.setZf (zeroFlagOf (s.readReg a) (s.readReg b))).retire .seq .ok)
  | _, _ => .next (s.skip .regRange)

/-- JMP (R182): next = `Jump imm` when `imm < 1024`, else skip(TARGET_RANGE). -/
def execJmp (target : Word) (s : State) : Host.Outcome State Fault Refusal :=
  match jumpTarget? target with
  | some t => .next (s.retire (.jump t) .ok)
  | none => .next (s.skip .targetRange)

/-- JE (R183): the target is checked first, whatever zf holds; then the jump is taken when zf = 1. zf is not written. -/
def execJe (target : Word) (s : State) : Host.Outcome State Fault Refusal :=
  match jumpTarget? target with
  | some t => .next (s.retire (if s.zf then .jump t else .seq) .ok)
  | none => .next (s.skip .targetRange)

end Sys2Proof.Machine
end

