-- ==== Sys2Proof/Machine/LoadStore.lean ====
section
/-! DEFINITION. LOAD and STORE (43_loadstore.md R170, R171): one byte at an absolute address. The register check comes before
the address check (40_step.md R129). -/

namespace Sys2Proof.Machine

/-- LOAD (R170): `x[r1] <- zext_32(MemRead(imm, 1))`. -/
def execLoad (rd : Byte) (addr : Word) (s : State) : Host.Outcome State Fault Refusal :=
  match regIndex? rd.toNat with
  | none => .next (s.skip .regRange)
  | some d =>
    match memAddress? addr with
    | none => .next (s.skip .memRange)
    | some a => .next ((s.writeReg d (zeroExtendByte (s.readMem a))).retire .seq .ok)

/-- STORE (R171): `MemWrite(imm, 1, x[r1] & 0xFF)`. -/
def execStore (rs : Byte) (addr : Word) (s : State) : Host.Outcome State Fault Refusal :=
  match regIndex? rs.toNat with
  | none => .next (s.skip .regRange)
  | some r =>
    match memAddress? addr with
    | none => .next (s.skip .memRange)
    | some a => .next ((s.writeMem a (lowByte (s.readReg r))).retire .seq .ok)

end Sys2Proof.Machine
end

