-- ==== Sys2Proof/Machine/Move.lean ====
section
/-! DEFINITION. The move-immediate instructions MOV, MOVZ and MOVN (41_move.md R140 to R142). -/

namespace Sys2Proof.Machine

/-- What the three moves share: `if r1 < 8 then x[r1] <- v else skip(REG_RANGE)`; next = Seq. -/
def moveTo (rd : Byte) (v : Word) (s : State) : Host.Outcome State Fault Refusal :=
  match regIndex? rd.toNat with
  | some d => .next ((s.writeReg d v).retire .seq .ok)
  | none => .next (s.skip .regRange)

/-- MOV (R140): `x[r1] <- imm`. -/
def execMov (rd : Byte) (imm : Word) (s : State) : Host.Outcome State Fault Refusal := moveTo rd imm s

/-- MOVZ (R141): `x[r1] <- zext_32(imm[15:0])`. -/
def execMovz (rd : Byte) (imm : Word) (s : State) : Host.Outcome State Fault Refusal := moveTo rd (literal16 imm) s

/-- MOVN (R142): `x[r1] <- ~imm`. -/
def execMovn (rd : Byte) (imm : Word) (s : State) : Host.Outcome State Fault Refusal := moveTo rd (~~~imm) s

end Sys2Proof.Machine
end

