-- ==== Sys2Proof/Machine/System.lean ====
section
/-! DEFINITION. NOP, HALT, PRINT, TDRAW_CLEAR and TDRAW_PIXEL (45_system.md R190 to R195). -/

namespace Sys2Proof.Machine

/-- NOP (R191): no effect; next = Seq. -/
def execNop (s : State) : Host.Outcome State Fault Refusal := .next (s.retire .seq .ok)

/-- HALT (R192): `running <- 0`; next = Stop, so the pc stays, and the halt check halts the engine. -/
def execHalt (s : State) : Host.Outcome State Fault Refusal := .next ((s.setRunning false).retire .stop .ok)

/-- PRINT (R193): mode 0 prints register `index`, mode 1 the memory cell `index`; any other mode is skipped. -/
def execPrint (mode : Byte) (index : Word) (s : State) : Host.Outcome State Fault Refusal :=
  if mode = 0 then
    match regIndex? index.toNat with
    | some i => .next ((s.emit (.printReg i (s.readReg i))).retire .seq .ok)
    | none => .next (s.skip .regRange)
  else if mode = 1 then
    match memAddress? index with
    | some a => .next ((s.emit (.printMem a (s.readMem a))).retire .seq .ok)
    | none => .next (s.skip .memRange)
  else .next (s.skip .modeInvalid)

/-- TDRAW_CLEAR (R194): `Emit(Clear)`. -/
def execTdrawClear (s : State) : Host.Outcome State Fault Refusal := .next ((s.emit .clear).retire .seq .ok)

/-- TDRAW_PIXEL (R195): `Emit(Pixel(x[xsel], x[ysel], ch))`, the position being the values of the selected registers;
the selectors are read as PIXEL_SEL says. -/
def execTdrawPixel (xsel ysel ch : Byte) (s : State) : Host.Outcome State Fault Refusal :=
  match pixelReg? s.params.pixelSel xsel, pixelReg? s.params.pixelSel ysel with
  | some x, some y => .next ((s.emit (.pixel (s.readReg x) (s.readReg y) ch)).retire .seq .ok)
  | _, _ => .next (s.skip .regRange)

end Sys2Proof.Machine
end

