-- ==== Sys2Proof/Machine/Dispatch.lean ====
section
/-! DEFINITION. The meaning of every instruction: one arm per constructor of `Instr`, each one call of its own meaning
(30_encoding.md R86, 40_step.md R122). -/

namespace Sys2Proof.Machine

def exec (i : Instr) (s : State) : Host.Outcome State Fault Refusal :=
  match i with
  | .nop => Sys2Proof.Machine.execNop s
  | .mov rd imm => Sys2Proof.Machine.execMov rd imm s
  | .add rd rs => Sys2Proof.Machine.execAdd rd rs s
  | .sub rd rs => Sys2Proof.Machine.execSub rd rs s
  | .load rd addr => Sys2Proof.Machine.execLoad rd addr s
  | .store rs addr => Sys2Proof.Machine.execStore rs addr s
  | .jmp target => Sys2Proof.Machine.execJmp target s
  | .cmp ra rb => Sys2Proof.Machine.execCmp ra rb s
  | .je target => Sys2Proof.Machine.execJe target s
  | .halt => Sys2Proof.Machine.execHalt s
  | .and rd rs => Sys2Proof.Machine.execAnd rd rs s
  | .orr rd rs => Sys2Proof.Machine.execOrr rd rs s
  | .eor rd rs => Sys2Proof.Machine.execEor rd rs s
  | .lsl rd amount => Sys2Proof.Machine.execLsl rd amount s
  | .lsr rd amount => Sys2Proof.Machine.execLsr rd amount s
  | .mul rd rs => Sys2Proof.Machine.execMul rd rs s
  | .udiv rd rs => Sys2Proof.Machine.execUdiv rd rs s
  | .neg rd => Sys2Proof.Machine.execNeg rd s
  | .movz rd imm => Sys2Proof.Machine.execMovz rd imm s
  | .movn rd imm => Sys2Proof.Machine.execMovn rd imm s
  | .print mode index => Sys2Proof.Machine.execPrint mode index s
  | .tdrawClear => Sys2Proof.Machine.execTdrawClear s
  | .tdrawPixel xsel ysel ch => Sys2Proof.Machine.execTdrawPixel xsel ysel ch s

end Sys2Proof.Machine
end

