-- ==== Sys2Proof/Machine/Step.lean ====
section
/-! DEFINITION. One step of the core (40_step.md R120 to R131), and the host's hook for placing an instruction. -/

namespace Sys2Proof.Machine

/-- One step (R131). While the engine is Halted the core performs no step and changes no state (R120). While it is
Running, the word at the pc is fetched and decoded: a defined opcode executes, an undefined one is the IllegalOpcode
fault (R123); a pc at the end of the store halts instead of fetching (R37). -/
def step (s : State) : Host.Outcome State Fault Refusal :=
  match s.engine with
  | .halted => .next s
  | .running =>
    match s.fetch? with
    | none => .next s.haltAtEnd
    | some w =>
      match decode w with
      | .ok i => exec i s
      | .error _ => .next s.raiseIllegalOpcode

/-- `s` made ready to fetch: as it is where the engine is Running with the pc inside the store, else after a run start
(R243), which is how every run begins. -/
def State.readyToFetch (s : State) : State :=
  if s.engine = .running ∧ s.pc.toNat < Config.storeSlots then s else s.runStart

/-- `s` with the given instruction stored where `step` fetches its next instruction: in the slot of the pc of a Running
engine (log 8: this stands for a load followed by a run start). -/
def State.withFetchWord (s : State) (nbits w : Nat) : State :=
  s.readyToFetch.writeSlot s.readyToFetch.pc.toNat (tableWord nbits w)

end Sys2Proof.Machine
end

