-- ==== Sys2Proof/Machine/Assembler.lean ====
section
/-! DEFINITION. The assembler (30_encoding.md R91 to R103): how a text line becomes an instruction word. A tool, not part of
the hardware block (00_scope.md R4); text is a list of 8-bit character codes. -/

namespace Sys2Proof.Machine

/-- Why the model refuses a line. -/
inductive AsmRefusal where
  /-- A decimal numeral outside the 32-bit range under IMM_OVERFLOW = `refuse` (R97, D27, U4). Safe. -/
  | immOverflow
  /-- Strict reading only: a field longer than TOKEN_MAX (U3). Safe. -/
  | longToken
  /-- Strict reading only: a register token that is not `R0`..`R7` (D5, U1). Safe. -/
  | registerToken
  /-- Strict reading only: more fields than the mnemonic takes (D29). Safe. -/
  | extraFields
deriving DecidableEq, Repr

/-- What a line assembles to: an instruction, a failure (the loader drops the line, R91), or the model's refusal. -/
inductive AsmResult where
  | instr (i : Instr)
  | fails
  | refused (why : AsmRefusal)
deriving DecidableEq, Repr

/-- The codes of a list of ASCII characters (K1). -/
def ascii (cs : List Char) : List Byte := cs.map fun c => BitVec.ofNat 8 c.toNat

/-- ASCII whitespace (R92, D35): space, tab, line feed, carriage return, vertical tab, form feed. -/
def isSpace (c : Byte) : Bool := c = 0x20 || c = 0x09 || c = 0x0A || c = 0x0D || c = 0x0B || c = 0x0C

/-- The fields of a line: its maximal runs of characters that are not whitespace (R92). `cur` is the field begun. -/
def splitFields : List Byte → List Byte → List (List Byte)
  | cur, [] => if cur = [] then [] else [cur]
  | cur, c :: cs =>
    if isSpace c then (if cur = [] then splitFields [] cs else cur :: splitFields [] cs)
    else splitFields (cur ++ [c]) cs

/-- The bound TOKEN_MAX, a positive integer, or an unknown positive bound while it is OPEN (R92, D29, log 11). -/
def tokenBound (p : Params) : Nat :=
  match p.tokenMax with
  | some n => n
  | none => Config.openTokenMaxPred + 1

/-- The fields the assembler reads: at most four, each cut to TOKEN_MAX characters (R92). -/
def lineFields (p : Params) (line : List Byte) : List (List Byte) :=
  ((splitFields [] line).take 4).map (List.take (tokenBound p))

/-- The spelling of a mnemonic: the opcode's name (R95, D26). -/
def mnemonicText : Opcode → List Byte
  | .nop => ascii ['N', 'O', 'P']
  | .mov => ascii ['M', 'O', 'V']
  | .add => ascii ['A', 'D', 'D']
  | .sub => ascii ['S', 'U', 'B']
  | .load => ascii ['L', 'O', 'A', 'D']
  | .store => ascii ['S', 'T', 'O', 'R', 'E']
  | .jmp => ascii ['J', 'M', 'P']
  | .cmp => ascii ['C', 'M', 'P']
  | .je => ascii ['J', 'E']
  | .halt => ascii ['H', 'A', 'L', 'T']
  | .and => ascii ['A', 'N', 'D']
  | .orr => ascii ['O', 'R', 'R']
  | .eor => ascii ['E', 'O', 'R']
  | .lsl => ascii ['L', 'S', 'L']
  | .lsr => ascii ['L', 'S', 'R']
  | .mul => ascii ['M', 'U', 'L']
  | .udiv => ascii ['U', 'D', 'I', 'V']
  | .neg => ascii ['N', 'E', 'G']
  | .movz => ascii ['M', 'O', 'V', 'Z']
  | .movn => ascii ['M', 'O', 'V', 'N']
  | .print => ascii ['P', 'R', 'I', 'N', 'T']
  | .tdrawClear => ascii ['T', 'D', 'R', 'A', 'W', '_', 'C', 'L', 'E', 'A', 'R']
  | .tdrawPixel => ascii ['T', 'D', 'R', 'A', 'W', '_', 'P', 'I', 'X', 'E', 'L']

/-- The opcode whose spelling a field is, in a list of rows of the opcode map; the match is exact and case-sensitive
(R94). -/
def findMnemonic (t : List Byte) : List (Byte × Opcode) → Option Opcode
  | [] => none
  | (_, o) :: rows => if t = mnemonicText o then some o else findMnemonic t rows

/-- The opcode a first field names, if any (R94). -/
def mnemonicOf (t : List Byte) : Option Opcode := findMnemonic t opcodeMap

/-- The operand syntax of a mnemonic (R95). -/
inductive ArgShape where
  | noArgs
  | regDec
  | regReg
  | dec
  | reg
  | keywordDec
  | regRegChar
deriving DecidableEq, Repr

/-- The operand syntax of each row of R95. -/
def argShape : Opcode → ArgShape
  | .nop => .noArgs
  | .mov => .regDec
  | .add => .regReg
  | .sub => .regReg
  | .load => .regDec
  | .store => .regDec
  | .jmp => .dec
  | .cmp => .regReg
  | .je => .dec
  | .halt => .noArgs
  | .and => .regReg
  | .orr => .regReg
  | .eor => .regReg
  | .lsl => .regDec
  | .lsr => .regDec
  | .mul => .regReg
  | .udiv => .regReg
  | .neg => .reg
  | .movz => .regDec
  | .movn => .regDec
  | .print => .keywordDec
  | .tdrawClear => .noArgs
  | .tdrawPixel => .regRegChar

/-- The argument count of an operand syntax (R95). -/
def ArgShape.count : ArgShape → Nat
  | .noArgs => 0
  | .regDec => 2
  | .regReg => 2
  | .dec => 1
  | .reg => 1
  | .keywordDec => 2
  | .regRegChar => 3

/-- The second character's code, 0 where there is none (R96, K1). -/
def secondChar : List Byte → Byte
  | _ :: c :: _ => c
  | _ => 0

/-- A register token's index: `(code(t[1]) - 0x30) mod 256` (R96, D5). -/
def registerToken (t : List Byte) : Byte := secondChar t - 0x30

/-- The value of a decimal digit's character, if it is one. -/
def digit? (c : Byte) : Option Nat :=
  if 0x30 ≤ c.toNat ∧ c.toNat ≤ 0x39 then some (c.toNat - 0x30) else none

/-- The numeral of the longest run of digits a list begins with, after the value `acc` of those before (R97). -/
def leadingNumeral : Nat → List Byte → Nat
  | acc, [] => acc
  | acc, c :: cs =>
    match digit? c with
    | some d => leadingNumeral (acc * 10 + d) cs
    | none => acc

/-- Whether a decimal token has a minus sign. -/
def decimalNegative : List Byte → Bool
  | c :: _ => c = 0x2D
  | [] => false

/-- The numeral of a decimal token, after its optional sign; 0 where no digit stands there (R97). -/
def decimalMagnitude : List Byte → Nat
  | c :: cs => if c = 0x2B ∨ c = 0x2D then leadingNumeral 0 cs else leadingNumeral 0 (c :: cs)
  | [] => 0

/-- Whether a decimal token's numeral has a settled value: at most 4294967295, or with a minus sign at most 2147483648
(R97). -/
def decimalInRange (t : List Byte) : Bool :=
  if decimalNegative t then decimalMagnitude t ≤ 2 ^ 31 else decimalMagnitude t < 2 ^ 32

/-- A decimal token's 32-bit value: the numeral, negated modulo 2^32 after a minus sign; outside the range as
IMM_OVERFLOW says, none for a refusal (R97, D27). -/
def decimalToken (p : Params) (t : List Byte) : Option Word :=
  if decimalInRange t then
    some (if decimalNegative t then -(BitVec.ofNat 32 (decimalMagnitude t)) else BitVec.ofNat 32 (decimalMagnitude t))
  else match p.immOverflow with
    | .refuse => none
    | .free => some (Config.overflowValue (decimalNegative t) (decimalMagnitude t))

/-- PRINT's mode keyword, matched exactly: REG is 0, MEM is 1, any other fails (R98). -/
def printMode (t : List Byte) : Option Byte :=
  if t = ascii ['R', 'E', 'G'] then some 0 else if t = ascii ['M', 'E', 'M'] then some 1 else none

/-- The character token's code: its first character (R99, D28). -/
def charToken (t : List Byte) : Byte := t.headD 0

/-- An instruction with a decimal operand, refused where the operand is. -/
def withDecimal (p : Params) (t : List Byte) (f : Word → Instr) : AsmResult :=
  match decimalToken p t with
  | some n => .instr (f n)
  | none => .refused .immOverflow

/-- The instruction of a mnemonic with its arguments; another argument count fails (R94, R95). Fields the row does not
name are 0. -/
def assembleArgs (p : Params) (o : Opcode) (args : List (List Byte)) : AsmResult :=
  match argShape o, args with
  | .noArgs, [] => .instr (buildInstr o 0 0 0)
  | .regDec, [r, n] => withDecimal p n (buildInstr o (registerToken r) 0)
  | .regReg, [r, q] => .instr (buildInstr o (registerToken r) (registerToken q) 0)
  | .dec, [n] => withDecimal p n (buildInstr o 0 0)
  | .reg, [r] => .instr (buildInstr o (registerToken r) 0 0)
  | .keywordDec, [k, n] =>
    match printMode k with
    | some mode => withDecimal p n (buildInstr o mode 0)
    | none => .fails
  | .regRegChar, [x, y, c] => .instr (buildInstr o 0 0 (packPixel (registerToken x) (registerToken y) (charToken c)))
  | _, _ => .fails

/-- The result for the fields the assembler has read (R93, R94). -/
def assembleFields (p : Params) : List (List Byte) → AsmResult
  | [] => .fails
  | m :: args =>
    match mnemonicOf m with
    | some o => assembleArgs p o args
    | none => .fails

/-- Assemble one line (R91). -/
def assembleLine (p : Params) (line : List Byte) : AsmResult := assembleFields p (lineFields p line)

/-- The word a line becomes, if it assembles (R95, R103). -/
def lineWord (p : Params) (line : List Byte) : Option InstrWord :=
  match assembleLine p line with
  | .instr i => some (encode i)
  | .fails => none
  | .refused _ => none

/-! The strict reading: what 92_eei_decisions.md and 93_implementation_defined.md advise a model to refuse before a claim
about the original software (D5, D27, D29, U1, U3, U4). -/

/-- A register token in canonical form, `R0` to `R7` (R96: "single-digit register names"). -/
def canonicalRegister (t : List Byte) : Bool :=
  match t with
  | [r, d] => r = 0x52 && 0x30 ≤ d.toNat && d.toNat ≤ 0x37
  | _ => false

/-- The register tokens among the arguments of a syntax. -/
def registerArgs (sh : ArgShape) (args : List (List Byte)) : List (List Byte) :=
  match sh with
  | .regDec | .reg => args.take 1
  | .regReg | .regRegChar => args.take 2
  | .noArgs | .dec | .keywordDec => []

/-- Assemble one line, refusing what the spec advises a model to refuse: a field longer than TOKEN_MAX, more fields
than the mnemonic takes, a register token that is not `R0`..`R7`, and an overflowing numeral. -/
def assembleStrict (p : Params) (line : List Byte) : AsmResult :=
  let raw := splitFields [] line
  if raw.any (fun t => tokenBound p < t.length) then .refused .longToken
  else match raw with
    | [] => .fails
    | m :: args =>
      match mnemonicOf m with
      | none => .fails
      | some o =>
        if (argShape o).count < args.length then .refused .extraFields
        else if (registerArgs (argShape o) args).any (fun t => !canonicalRegister t) then .refused .registerToken
        else assembleArgs { p with immOverflow := .refuse } o args

/-! The loader (R101, R102). -/

/-- The lines of a program text: it is cut at each line feed (log 14). `cur` is the line begun. -/
def splitLines : List Byte → List Byte → List (List Byte)
  | cur, [] => [cur]
  | cur, c :: cs => if c = 0x0A then cur :: splitLines [] cs else splitLines (cur ++ [c]) cs

/-- The instructions of the lines in order, with `room` slots left: a line that fails is dropped and takes no slot,
loading stops when the store is full, and a refused line that is reached refuses the text (none; log 20). -/
def assembleLines (p : Params) : Nat → List (List Byte) → Option (List Instr)
  | _, [] => some []
  | 0, _ :: _ => some []
  | room + 1, line :: lines =>
    match assembleLine p line with
    | .instr i => (assembleLines p room lines).map (i :: ·)
    | .fails => assembleLines p (room + 1) lines
    | .refused _ => none

/-- The words of a program text, in slot order (R101). -/
def assembleText (p : Params) (text : List Byte) : Option (List InstrWord) :=
  (assembleLines p Config.storeSlots (splitLines [] text)).map (List.map encode)

end Sys2Proof.Machine
end

