-- ==== Sys2Proof/Machine/HostControl.lean ====
section
/-! DEFINITION. What the host can do to the core (10_state.md R50; 70_reset_and_hazards.md R243 to R250): load, run, read a
register or a memory byte, and only while the engine is Halted. -/

namespace Sys2Proof.Machine

/-- The host's operations on the core (R48, D25). -/
inductive HostCommand where
  /-- `regs`: dump all 8 registers (R50). -/
  | regs
  /-- `mem <addr>`: dump one memory byte (R50). -/
  | mem (addr : Nat)
  /-- `load <file>` with the file's text (R244). -/
  | load (text : List Byte)
  /-- `load <file>` whose file cannot be opened (R250). -/
  | loadUnopenable
  /-- `run`: a run start, after which the core steps (R245). -/
  | run
deriving DecidableEq, Repr

/-- What the host is told. -/
inductive HostReply where
  | registers (values : List Word)
  | memByte (value : Byte)
  /-- The error "invalid address" of a read at 1024 or above (R50). -/
  | invalidAddress
  | loaded
  /-- The model refuses the text (R97, U4). -/
  | loadRefused
  /-- The message of a load whose file cannot be opened (R250). -/
  | cannotOpen
  | started
deriving DecidableEq, Repr

/-- The answer to a host command. -/
inductive HostAnswer where
  | accepted (s : State) (reply : HostReply)
  /-- The engine is Running: no host command is performed during a run (R248). -/
  | notAccepted
deriving DecidableEq, Repr

/-- A host read of one memory byte: an address of 1024 or more is an error and reads no cell (R50). -/
def State.hostReadMem (s : State) (addr : Nat) : HostReply :=
  if addr < Config.memSize then .memByte (s.readMem addr) else .invalidAddress

/-- A host load of a program text (R101, R244): all 1024 slots are written, and nothing else changes. -/
def State.hostLoad (s : State) (text : List Byte) : HostAnswer :=
  match assembleText s.params text with
  | some ws => .accepted (s.placeWords ws) .loaded
  | none => .accepted s .loadRefused

/-- What a command does to a Halted core. -/
def State.performHost (s : State) : HostCommand → HostAnswer
  | .regs => .accepted s (.registers s.regs.toList)
  | .mem addr => .accepted s (s.hostReadMem addr)
  | .load text => s.hostLoad text
  | .loadUnopenable => .accepted s .cannotOpen
  | .run => .accepted s.runStart .started

/-- A host command: accepted only while the engine is Halted (R248). -/
def State.hostCommand (s : State) (c : HostCommand) : HostAnswer :=
  match s.engine with
  | .halted => s.performHost c
  | .running => .notAccepted

/-- Steps until the engine is Halted (R245), under fuel: none when the fuel runs out, which is no halt (R253). -/
def runToHalt : Nat → State → Option State
  | 0, s => if s.engine = .halted then some s else none
  | fuel + 1, s =>
    if s.engine = .halted then some s
    else match step s with
      | .next t => runToHalt fuel t
      | .fault _ => none
      | .refused _ => none

/-- A host run: a run start, then steps until the engine is Halted (R245). -/
def State.hostRun (s : State) (fuel : Nat) : Option State := runToHalt fuel s.runStart

/-- The machine right after power-on with other parameters than the defaults (R9, R240). -/
def State.powerOn (p : Params) : State := { State.reset with params := p }

/-- Non-interactive mode (R246, R250): power-on reset, one load, one run. A file that cannot be opened (`none`) leaves
the power-on store of NOPs, and the run executes it. No result where the text is refused (log 20) or the fuel runs out
(R253). -/
def launch (p : Params) (file : Option (List Byte)) (fuel : Nat) : Option State :=
  match file with
  | none => (State.powerOn p).hostRun fuel
  | some text =>
    match assembleText p text with
    | some ws => ((State.powerOn p).placeWords ws).hostRun fuel
    | none => none

end Sys2Proof.Machine
end

