-- ==== Sys2Proof/Safety.lean ====
section
/-! DEFINITION. What counts as a safe state and a safe run, and the words the claims are stated in: the invariant, the
reachable states, what an instruction may change, and how it ends. -/

namespace Sys2Proof.Machine

/-- The invariant of the machine: both stores canonical; the pc in 0..1024 (R35); a Running engine has the pc inside the
store (R121), `running` set (R41) and no fault (R43); a fault halts the engine with `running` still set (R255). -/
structure Inv (s : State) : Prop where
  mem_wf : Memory.wf s.mem = true
  istore_wf : InstrStore.wf s.istore = true
  pc_le : s.pc.toNat ≤ 1024
  pc_lt : s.engine = .running → s.pc.toNat < 1024
  running_set : s.engine = .running → s.running = true
  no_fault : s.engine = .running → s.fault = false
  fault_running : s.fault = true → s.running = true ∧ s.pc.toNat < 1024

/-- The states a machine can be in: from power-on, by steps of the core and commands of the host (R7). -/
inductive Reachable : State → Prop where
  /-- Power-on, with any parameters (R9, R240). -/
  | powerOn (p : Params) : Reachable (State.powerOn p)
  /-- A step of the core. -/
  | step {s t : State} : Reachable s → step s = .next t → Reachable t
  /-- A host command. -/
  | host {s t : State} {c : HostCommand} {r : HostReply} : Reachable s → s.hostCommand c = .accepted t r → Reachable t

/-- The states reachable when words may also be placed in the store of a Halted core by other means than a load
(R88, D34). -/
inductive ReachablePlaced : State → Prop where
  | powerOn (p : Params) : ReachablePlaced (State.powerOn p)
  | step {s t : State} : ReachablePlaced s → step s = .next t → ReachablePlaced t
  | host {s t : State} {c : HostCommand} {r : HostReply} :
      ReachablePlaced s → s.hostCommand c = .accepted t r → ReachablePlaced t
  | placed {s : State} (ws : List InstrWord) : ReachablePlaced s → s.engine = .halted → ReachablePlaced (s.placeWords ws)

/-- What an instruction's own effect may change; everything it leaves out stays. -/
structure Effect where
  reg : Option (Fin 8) := none
  cell : Option Nat := none
  zf : Bool := false
  running : Bool := false
  event : Option Event := none
  draws : Bool := false

/-- From `s` to `t` nothing changes but what the effect names, the pc, the engine state and the status output: every
other register, every other byte of memory, every slot of the instruction store, the flags, the parameters; and the
output trace grows by exactly the effect's event. -/
structure ChangesOnly (e : Effect) (s t : State) : Prop where
  regs : ∀ i : Fin 8, e.reg ≠ some i → t.readReg i = s.readReg i
  mem : ∀ a : Nat, e.cell ≠ some a → t.readMem a = s.readMem a
  slots : ∀ k : Nat, t.readSlot k = s.readSlot k
  zf : e.zf = false → t.zf = s.zf
  running : e.running = false → t.running = s.running
  fault : t.fault = s.fault
  events : t.events = s.events ++ e.event.toList
  params : t.params = s.params
  draws : e.draws = false → t.draws = s.draws

/-- Halt detection (R127): the engine is Halted where `running = 0` or the pc is 1024 or more, else as it was. -/
def HaltDetected (s t : State) : Prop :=
  t.engine = if t.running = true ∧ t.pc.toNat < 1024 then s.engine else .halted

/-- The instruction ended with the next-pc choice Seq (R126), halt detection (R127) and this status (R128). -/
def EndsSeq (c : Status) (s t : State) : Prop := t.pc = s.pc + 1 ∧ HaltDetected s t ∧ t.status = some c

/-- The instruction ended with the next-pc choice `Jump target` (R126), halt detection and status OK. -/
def EndsJump (target : Word) (s t : State) : Prop := t.pc = target ∧ HaltDetected s t ∧ t.status = some .ok

/-- The outcome is `skip(code)` (R12, R125): a next state with no effect, the pc one further, the status `code`. -/
def Skips (c : Status) (s : State) (o : Host.Outcome State Fault Refusal) : Prop :=
  ∃ t, o = .next t ∧ ChangesOnly {} s t ∧ EndsSeq c s t

/-- The bits of a word that its opcode uses (R82, R86): the opcode field and the fields its row names, written as the
word whose used fields are all ones. -/
def usedMask : Opcode → InstrWord
  | .nop | .halt | .tdrawClear => packWord 0xFF 0 0 0
  | .mov | .load | .store | .lsl | .lsr | .movz | .movn | .print => packWord 0xFF 0xFF 0 0xFFFFFFFF
  | .add | .sub | .cmp | .and | .orr | .eor | .mul | .udiv => packWord 0xFF 0xFF 0xFF 0
  | .neg => packWord 0xFF 0xFF 0 0
  | .jmp | .je => packWord 0xFF 0 0 0xFFFFFFFF
  | .tdrawPixel => packWord 0xFF 0 0 0x00FFFFFF

/-- The instructions that write a register, with the register index field they write (R31). -/
def destIndex : Instr → Option Nat
  | .mov rd _ | .movz rd _ | .movn rd _ | .load rd _ | .add rd _ | .sub rd _ | .and rd _ | .orr rd _ | .eor rd _
  | .mul rd _ | .udiv rd _ | .lsl rd _ | .lsr rd _ | .neg rd => some rd.toNat
  | .nop | .store _ _ | .jmp _ | .cmp _ _ | .je _ | .halt | .print _ _ | .tdrawClear | .tdrawPixel _ _ _ => none

/-- The three instructions that send an output event (R190). -/
def sendsEvent : Instr → Bool
  | .print _ _ | .tdrawClear | .tdrawPixel _ _ _ => true
  | .nop | .mov _ _ | .add _ _ | .sub _ _ | .load _ _ | .store _ _ | .jmp _ | .cmp _ _ | .je _ | .halt | .and _ _
  | .orr _ _ | .eor _ _ | .lsl _ _ | .lsr _ _ | .mul _ _ | .udiv _ _ | .neg _ | .movz _ _ | .movn _ _ => false

/-- The state with another output trace so far, everything else as it is. -/
def State.withEvents (s : State) (es : List Event) : State := { s with events := es }

/-- The core in state `s` is about to execute instruction `i`: it is Running, and the word at the pc decodes to it. -/
def Executes (s : State) (i : Instr) : Prop :=
  s.engine = .running ∧ ∃ w, s.fetch? = some w ∧ decode w = .ok i

/-- Every word whose opcode field is `v` decodes to the instruction `f` reads from its fields (R81, R82). -/
def EncodedAs (v : Byte) (f : InstrWord → Instr) : Prop :=
  ∀ w : InstrWord, w.extractLsb' 0 8 = v → decode w = .ok (f w)

/-- The register indices an instruction uses that PIXEL_SEL lets fail: under `mask3` the selectors of TDRAW_PIXEL are
never out of range (R195). -/
def checkedIndices (sel : PixelSel) (i : Instr) : List Nat :=
  match i, sel with
  | .tdrawPixel _ _ _, .mask3 => []
  | i, _ => i.registerIndices

/-- UDIV's divisor register holds 0 (R160). -/
def divisorZero (s : State) : Instr → Prop
  | .udiv _ rs => ∃ b : Fin 8, rs.toNat = b ∧ s.readReg b = 0
  | _ => False

/-- The status an instruction must report: the first guard condition that fails, in the order of R129. -/
def StatusDue (s : State) (i : Instr) (c : Status) : Prop :=
  if i.modeOk = false then c = .modeInvalid
  else if ∃ n ∈ checkedIndices s.params.pixelSel i, 8 ≤ n then c = .regRange
  else if ∃ a, i.dataAddress = some a ∧ 1024 ≤ a then c = .memRange
  else if ∃ t, i.jumpTarget = some t ∧ 1024 ≤ t then c = .targetRange
  else (divisorZero s i → c = .divZero) ∧ (¬ divisorZero s i → c = .ok)

/-- A two-register operation as R152 to R159 give it: opcode `v`, r1 and r2 the registers, and with both indices below 8
`x[r1]` becomes `f x[r1] x[r2]` (read before the write) and nothing else changes; with either index 8 or more the
instruction is skipped with REG_RANGE. -/
def TwoRegisterRule (v : Byte) (mk : Byte → Byte → Instr) (f : Word → Word → Word) : Prop :=
  EncodedAs v (fun w => mk (w.extractLsb' 8 8) (w.extractLsb' 16 8)) ∧
  ∀ (rd rs : Byte) (s : State),
    (∀ d b : Fin 8, rd.toNat = d → rs.toNat = b →
      ∃ t, exec (mk rd rs) s = .next t ∧ t.readReg d = f (s.readReg d) (s.readReg b) ∧
        ChangesOnly { reg := some d } s t ∧ EndsSeq .ok s t) ∧
    (8 ≤ rd.toNat ∨ 8 ≤ rs.toNat → Skips .regRange s (exec (mk rd rs) s))

/-- A one-register write of a value computed from the instruction and the state, as R140 to R142 and R161 give it. -/
def OneRegisterRule (i : Instr) (rd : Byte) (f : Word → Word) : Prop :=
  ∀ s : State,
    (∀ d : Fin 8, rd.toNat = d →
      ∃ t, exec i s = .next t ∧ t.readReg d = f (s.readReg d) ∧ ChangesOnly { reg := some d } s t ∧ EndsSeq .ok s t) ∧
    (8 ≤ rd.toNat → Skips .regRange s (exec i s))

/-- A shift by the immediate as R157 and R158 give it, for every value of SHIFT_GE32. Under `draw` the register's new
value is free: only what else changes is said. -/
def ShiftRule (v : Byte) (mk : Byte → Word → Instr) (shift : Word → Nat → Word) : Prop :=
  EncodedAs v (fun w => mk (w.extractLsb' 8 8) (w.extractLsb' 32 32)) ∧
  ∀ (rd : Byte) (amount : Word) (s : State),
    (∀ d : Fin 8, rd.toNat = d → amount.toNat < 32 →
      ∃ t, exec (mk rd amount) s = .next t ∧ t.readReg d = shift (s.readReg d) amount.toNat ∧
        ChangesOnly { reg := some d } s t ∧ EndsSeq .ok s t) ∧
    (∀ d : Fin 8, rd.toNat = d → 32 ≤ amount.toNat → s.params.shiftGe32 = .zero →
      ∃ t, exec (mk rd amount) s = .next t ∧ t.readReg d = 0 ∧
        ChangesOnly { reg := some d } s t ∧ EndsSeq .ok s t) ∧
    (∀ d : Fin 8, rd.toNat = d → 32 ≤ amount.toNat → s.params.shiftGe32 = .mask5 →
      ∃ t, exec (mk rd amount) s = .next t ∧ t.readReg d = shift (s.readReg d) (amount.toNat % 32) ∧
        ChangesOnly { reg := some d } s t ∧ EndsSeq .ok s t) ∧
    (∀ d : Fin 8, rd.toNat = d → 32 ≤ amount.toNat → s.params.shiftGe32 = .draw →
      ∃ t, exec (mk rd amount) s = .next t ∧
        ChangesOnly { reg := some d, draws := true } s t ∧ EndsSeq .ok s t) ∧
    (8 ≤ rd.toNat → Skips .regRange s (exec (mk rd amount) s))

/-- The fields of a line assemble to an instruction whose word has the given fields, `imm << 32 | r2 << 16 | r1 << 8 |
opcode`, and 0 in its reserved byte (R81, R95). -/
def AssemblesTo (p : Params) (fields : List (List Byte)) (opcode : Nat) (r1 r2 : Byte) (imm : Word) : Prop :=
  ∃ i, assembleFields p fields = .instr i ∧
    encode i = BitVec.ofNat 64 (imm.toNat * 2 ^ 32 + r2.toNat * 2 ^ 16 + r1.toNat * 2 ^ 8 + opcode)

end Sys2Proof.Machine
end

