-- ==== Sys2Proof/Certificates/Slice0/Obligations.lean ====
section
/-! DEFINITION. The statements for the provers, each about every state (no program): encoding, the step, the invariant, the
whole-machine rules, one result-and-frame statement per instruction, and the host and assembler rules. -/

open Sys2Proof Sys2Proof.Machine

/-! Encoding. -/

/-- Decoding an encoded instruction gives it back, for every instruction and every operand value (R81, R82, R86, R95),
and the encoded word has 0 in its reserved byte. -/
def Obligations.EncodeThenDecodeGivesInstr : Prop :=
  ∀ i : Instr, decode (encode i) = .ok i ∧ (encode i).extractLsb' 24 8 = 0

/-- Each decoded word has one meaning: encoding the instruction read from a word gives the word back with 0 in the bits
its opcode does not use (R81, R82, R85, R86). That `encode` writes 0 there is what the assembler does (R95), and that a
decoded instruction does not keep them is the model's inference (log 10). -/
def Obligations.DecodeThenEncodeKeepsUsedBits : Prop :=
  ∀ (w : InstrWord) (i : Instr), decode w = .ok i → encode i = w &&& usedMask i.opcode

/-- R82: a field an operation does not use is ignored whatever it holds, and bits [31:24] are always ignored. -/
def Obligations.UnusedFieldsAreIgnored : Prop :=
  ∀ (w w' : InstrWord) (o : Opcode), Opcode.ofByte (w.extractLsb' 0 8) = some o →
    w &&& usedMask o = w' &&& usedMask o → decode w' = decode w

/-- R88: exactly the words with an opcode field of 23 to 255 are no instructions, and each is named by its opcode. -/
def Obligations.ReservedOpcodesAreNoInstructions : Prop :=
  ∀ w : InstrWord,
    (23 ≤ (w.extractLsb' 0 8).toNat → decode w = .error (.illegalOpcode (w.extractLsb' 0 8))) ∧
    ((w.extractLsb' 0 8).toNat < 23 → ∃ i, decode w = .ok i)

/-- R87 (an inference the spec marks as its own) and a few words written out from the spec's encodings: they decode to
the instructions they stand for. -/
def Obligations.WrittenOutWordsDecode : Prop :=
  (∀ w : InstrWord, w.extractLsb' 0 8 = 0 → decode w = .ok .nop) ∧
  decode 0x0000002A00000001 = .ok (.mov 0 42) ∧
  decode 0x0000000000020103 = .ok (.sub 1 2) ∧
  decode 0x0000006400000204 = .ok (.load 2 100) ∧
  decode 0x0000000500000008 = .ok (.je 5) ∧
  decode 0x000003FF00000114 = .ok (.print 1 1023) ∧
  decode 0x002A020100000016 = .ok (.tdrawPixel 1 2 0x2A)

/-- R64: byte k of the layout a tool uses holds word bits [8k+7:8k], and the eight bytes give the word back. -/
def Obligations.WordBytesAreLittleEndian : Prop :=
  ∀ w : InstrWord,
    (∀ (k : Nat) (hk : k < 8), ∃ h : k < (bytesOfWord w).length, (bytesOfWord w)[k] = w.extractLsb' (8 * k) 8) ∧
    ∀ rest : List Byte, decodeBytes (bytesOfWord w ++ rest) =
      match decode w with
      | .ok i => .ok (i, rest)
      | .error e => .error e

/-! The step. -/

/-- A step runs the decoded instruction: with the engine Running and the pc inside the store, a word that decodes to
`i` makes the step exactly `exec i` at that state; the step adds nothing around it (R121, R122, R131). -/
def Obligations.StepRunsDecodedInstr : Prop :=
  ∀ (s : State) (i : Instr), s.engine = .running → s.pc.toNat < 1024 → decode (s.readSlot s.pc.toNat) = .ok i →
    step s = exec i s

/-- R123: a fetched word with opcode 23 to 255 sets the fault flag, halts the engine and reports ILLEGAL_OPCODE; every
register, byte, slot, `zf`, `running`, the output trace and the pc stay. -/
def Obligations.IllegalOpcodeHaltsEngine : Prop :=
  ∀ s : State, s.engine = .running → s.pc.toNat < 1024 →
    23 ≤ ((s.readSlot s.pc.toNat).extractLsb' 0 8).toNat →
    ∃ t, step s = .next t ∧ t.fault = true ∧ t.engine = .halted ∧ t.status = some .illegalOpcode ∧ t.pc = s.pc ∧
      ChangesOnly {} s (t.setFault s.fault)

/-- R120: while the engine is Halted the core performs no step and changes no state. That `step` then answers the same
state is the model's choice (log 5). -/
def Obligations.HaltedCoreChangesNothing : Prop :=
  ∀ s : State, s.engine = .halted → step s = .next s

/-- The model's reading of R37 for a state no run reaches (log 6): a Running engine with the pc at 1024 or above halts
instead of fetching, and nothing else changes. -/
def Obligations.EndOfStoreHaltsBeforeFetch : Prop :=
  ∀ s : State, s.engine = .running → 1024 ≤ s.pc.toNat → step s = .next (s.setEngine .halted)

/-- R130, with the model's inferences of logs 5, 6 and 16: the step is total. From every state it answers a next state,
never a fault or a refusal of the model: also from a Halted state, where R120 performs no step (log 5), from a Running
one with the pc at 1024 or above (log 6), and for the fetch of an undefined opcode (R123, log 16), which alone sets the
fault flag. That the result depends on the state at the start alone is its being a function of the state. -/
def Obligations.StepIsTotal : Prop :=
  ∀ s : State, ∃ t, step s = .next t ∧
    (t.fault ≠ s.fault → s.engine = .running ∧ ∃ w, s.fetch? = some w ∧ 23 ≤ (w.extractLsb' 0 8).toNat)

/-- Every step keeps the machine's invariant, from every state that meets it (R35, R41, R43, R45, R46, R121, R127). -/
def Obligations.StepKeepsInvariant : Prop :=
  ∀ s t : State, Inv s → step s = .next t → Inv t

/-- The machine right after power-on, with any parameters, meets the invariant. -/
def Obligations.PowerOnMeetsInvariant : Prop :=
  Inv State.reset ∧ ∀ p : Params, Inv (State.powerOn p)

/-- Every state reached from power-on by steps, host commands and words placed in a Halted core's store meets the
invariant: the pc stays in 0..1024 (R35) and a Running engine always has a slot to fetch (R121). -/
def Obligations.ReachableStatesMeetInvariant : Prop :=
  ∀ s : State, ReachablePlaced s → Inv s

/-- A core whose store was only ever filled by loading program text never faults (R43, R88: the assembler never produces
an undefined opcode). -/
def Obligations.LoadedTextNeverFaults : Prop :=
  ∀ s : State, Reachable s → s.fault = false

/-- R255 (an inference the spec marks as its own): a run that ends, ends in exactly one of three ways; they exclude each
other by `running` and `fault`. -/
def Obligations.RunEndsInOneOfThreeWays : Prop :=
  ∀ s t : State, Inv s → s.engine = .running → step s = .next t → t.engine = .halted →
    (Executes s .halt ∧ t.running = false ∧ t.fault = false ∧ t.pc = s.pc) ∨
    (t.running = true ∧ t.fault = false ∧ t.pc.toNat = 1024) ∨
    (t.fault = true ∧ t.running = true ∧ t.pc = s.pc ∧
      ∃ w, s.fetch? = some w ∧ 23 ≤ (w.extractLsb' 0 8).toNat)

/-! Whole-machine rules. -/

/-- R39: CMP is the only instruction that writes the zero flag. -/
def Obligations.OnlyCmpWritesZeroFlag : Prop :=
  ∀ s t : State, step s = .next t → t.zf ≠ s.zf → ∃ ra rb, Executes s (.cmp ra rb)

/-- R69(c), R171: nothing but a STORE changes a byte of data memory, and only the byte its address names. -/
def Obligations.OnlyStoreWritesMemory : Prop :=
  ∀ (s t : State) (a : Nat), step s = .next t → t.readMem a ≠ s.readMem a →
    ∃ (rs : Byte) (addr : Word) (c : Fin 1024), Executes s (.store rs addr) ∧ memAddress? addr = some c ∧ a = c

/-- R46, R72: no step writes the instruction store, so a program cannot modify its own code. Nor does a step change the
parameters of R9, which the model keeps in a field of the state (log 1, a design choice). -/
def Obligations.StepNeverWritesInstructionStore : Prop :=
  ∀ s t : State, step s = .next t → t.istore = s.istore ∧ t.params = s.params

/-- R41: HALT clears the run flag, and no other step writes it. -/
def Obligations.OnlyHaltWritesRunning : Prop :=
  ∀ s t : State, step s = .next t → t.running ≠ s.running → Executes s .halt ∧ t.running = false

/-- R31: a register changes only by one of the instructions listed as writing it, and only the one its r1 field
selects. -/
def Obligations.RegistersWrittenOnlyByListedInstrs : Prop :=
  ∀ (s t : State) (j : Fin 8), step s = .next t → t.readReg j ≠ s.readReg j →
    ∃ i, Executes s i ∧ destIndex i = some (j : Nat)

/-- R190: a step sends at most one output event, and only PRINT, TDRAW_CLEAR and TDRAW_PIXEL send one. -/
def Obligations.AtMostOneEventPerStep : Prop :=
  ∀ s t : State, step s = .next t →
    t.events = s.events ∨ ∃ (i : Instr) (e : Event), Executes s i ∧ sendsEvent i = true ∧ t.events = s.events ++ [e]

/-- R126, R210: a step of a Running core moves the pc to the next slot, to the valid target of a taken jump, or leaves
it and halts. -/
def Obligations.PcMovesToSuccessorOrTarget : Prop :=
  ∀ s t : State, s.engine = .running → step s = .next t →
    (∃ i, Executes s i ∧ t.pc = s.pc + 1) ∨
    (∃ target : Word, (Executes s (.jmp target) ∨ (Executes s (.je target) ∧ s.zf = true)) ∧
      target.toNat < 1024 ∧ t.pc = target) ∨
    (t.pc = s.pc ∧ t.engine = .halted)

/-- R190: the sink returns nothing, so no state of the core depends on the events sent: with another trace so far, the
step sends the same new events and does the same to everything else. -/
def Obligations.EventsDoNotFeedBack : Prop :=
  ∀ (s t : State) (es : List Event), step s = .next t →
    ∃ new : List Event, t.events = s.events ++ new ∧
      step (s.withEvents es) = .next (t.withEvents (es ++ new))

/-- R39: JE is the only instruction that reads the zero flag: any other instruction does the same to everything else
whatever the flag holds, and a CMP of two valid registers gives the same new flag. -/
def Obligations.OnlyJeReadsZeroFlag : Prop :=
  ∀ (i : Instr) (s t : State) (b : Bool), (∀ target, i ≠ .je target) → exec i s = .next t →
    ∃ t', exec i (s.setZf b) = .next t' ∧ t'.setZf t.zf = t ∧
      (∀ ra rb : Byte, i = .cmp ra rb → ra.toNat < 8 → rb.toNat < 8 → t'.zf = t.zf)

/-- R125, R128: an instruction that reports any status but OK is a no-op: it changes nothing, and its pc advances by
1. -/
def Obligations.FailedGuardHasNoEffect : Prop :=
  ∀ (i : Instr) (s t : State) (c : Status), exec i s = .next t → t.status = some c → c ≠ .ok →
    ChangesOnly {} s t ∧ EndsSeq c s t

/-- R129: the status reported is that of the first failing guard condition in the order mode, register indices, data
address, jump target, divisor, and OK where none fails. -/
def Obligations.FirstFailingGuardIsReported : Prop :=
  ∀ (i : Instr) (s t : State), exec i s = .next t → ∃ c, t.status = some c ∧ StatusDue s i c

/-! Moves. -/

/-- R140: MOV writes the 32-bit immediate; an index of 8 or more skips. -/
def Obligations.MovWritesImmediate : Prop :=
  EncodedAs 1 (fun w => .mov (w.extractLsb' 8 8) (w.extractLsb' 32 32)) ∧
  ∀ (rd : Byte) (imm : Word), OneRegisterRule (.mov rd imm) rd (fun _ => imm)

/-- R141: MOVZ writes the immediate modulo 2^16; an index of 8 or more skips. -/
def Obligations.MovzWritesLowHalf : Prop :=
  EncodedAs 18 (fun w => .movz (w.extractLsb' 8 8) (w.extractLsb' 32 32)) ∧
  ∀ (rd : Byte) (imm : Word), OneRegisterRule (.movz rd imm) rd (fun _ => BitVec.ofNat 32 (imm.toNat % 2 ^ 16))

/-- R142: MOVN writes the complement of all 32 bits of the immediate; an index of 8 or more skips. -/
def Obligations.MovnWritesComplement : Prop :=
  EncodedAs 19 (fun w => .movn (w.extractLsb' 8 8) (w.extractLsb' 32 32)) ∧
  ∀ (rd : Byte) (imm : Word), OneRegisterRule (.movn rd imm) rd (fun _ => BitVec.ofNat 32 (2 ^ 32 - 1 - imm.toNat))

/-! ALU. -/

/-- R152: ADD writes the sum modulo 2^32. -/
def Obligations.AddWrapsModulo : Prop :=
  TwoRegisterRule 2 .add (fun a b => BitVec.ofNat 32 (a.toNat + b.toNat))

/-- R153: SUB writes the difference modulo 2^32. -/
def Obligations.SubWrapsModulo : Prop :=
  TwoRegisterRule 3 .sub (fun a b => BitVec.ofInt 32 ((a.toNat : Int) - b.toNat))

/-- R154, R155, R156: each bit of the result is the operation on the two operands' bits. -/
def Obligations.BitwiseOperationsActPerBit : Prop :=
  TwoRegisterRule 10 .and (fun a b => a &&& b) ∧
  TwoRegisterRule 11 .orr (fun a b => a ||| b) ∧
  TwoRegisterRule 12 .eor (fun a b => a ^^^ b)

/-- R157: LSL by the full 32-bit amount; from 32 on as SHIFT_GE32 says. -/
def Obligations.LslShiftsLeft : Prop :=
  ShiftRule 13 .lsl (fun v n => BitVec.ofNat 32 (v.toNat * 2 ^ n))

/-- R158: LSR, logical, by the full 32-bit amount; from 32 on as SHIFT_GE32 says. -/
def Obligations.LsrShiftsRight : Prop :=
  ShiftRule 14 .lsr (fun v n => BitVec.ofNat 32 (v.toNat / 2 ^ n))

/-- R159: MUL writes the product modulo 2^32. -/
def Obligations.MulKeepsLowWord : Prop :=
  TwoRegisterRule 15 .mul (fun a b => BitVec.ofNat 32 (a.toNat * b.toNat))

/-- R160: the register check comes before the divisor check; a zero divisor skips; else the unsigned quotient. -/
def Obligations.UdivDividesOrSkips : Prop :=
  EncodedAs 16 (fun w => .udiv (w.extractLsb' 8 8) (w.extractLsb' 16 8)) ∧
  ∀ (rd rs : Byte) (s : State),
    (∀ d b : Fin 8, rd.toNat = d → rs.toNat = b → s.readReg b ≠ 0 →
      ∃ t, exec (.udiv rd rs) s = .next t ∧
        t.readReg d = BitVec.ofNat 32 ((s.readReg d).toNat / (s.readReg b).toNat) ∧
        ChangesOnly { reg := some d } s t ∧ EndsSeq .ok s t) ∧
    (∀ d b : Fin 8, rd.toNat = d → rs.toNat = b → s.readReg b = 0 → Skips .divZero s (exec (.udiv rd rs) s)) ∧
    (8 ≤ rd.toNat ∨ 8 ≤ rs.toNat → Skips .regRange s (exec (.udiv rd rs) s))

/-- R161: NEG writes 2^32 minus the value, modulo 2^32. -/
def Obligations.NegNegatesModulo : Prop :=
  EncodedAs 17 (fun w => .neg (w.extractLsb' 8 8)) ∧
  ∀ rd : Byte, OneRegisterRule (.neg rd) rd (fun v => BitVec.ofNat 32 (2 ^ 32 - v.toNat))

/-! Load and store. -/

/-- R170: the loaded value is the byte, zero-extended (the spec marks the extension as its inference from R45 and R30);
the register check comes before the address check. -/
def Obligations.LoadReadsByteZeroExtended : Prop :=
  EncodedAs 4 (fun w => .load (w.extractLsb' 8 8) (w.extractLsb' 32 32)) ∧
  ∀ (rd : Byte) (addr : Word) (s : State),
    (∀ d : Fin 8, rd.toNat = d → addr.toNat < 1024 →
      ∃ t, exec (.load rd addr) s = .next t ∧ t.readReg d = BitVec.ofNat 32 (s.readMem addr.toNat).toNat ∧
        ChangesOnly { reg := some d } s t ∧ EndsSeq .ok s t) ∧
    (rd.toNat < 8 → 1024 ≤ addr.toNat → Skips .memRange s (exec (.load rd addr) s)) ∧
    (8 ≤ rd.toNat → Skips .regRange s (exec (.load rd addr) s))

/-- R171: the low byte goes to the cell whose address the meaning's own `memAddress?` gives, which is the immediate;
every other byte of memory reads as before. -/
def Obligations.StoreWritesLowByte : Prop :=
  EncodedAs 5 (fun w => .store (w.extractLsb' 8 8) (w.extractLsb' 32 32)) ∧
  ∀ (rs : Byte) (addr : Word) (s : State),
    (∀ (r : Fin 8) (a : Fin 1024), rs.toNat = r → memAddress? addr = some a →
      (a : Nat) = addr.toNat ∧
      ∃ t, exec (.store rs addr) s = .next t ∧ t.readMem a = BitVec.ofNat 8 ((s.readReg r).toNat % 256) ∧
        ChangesOnly { cell := some a } s t ∧ EndsSeq .ok s t) ∧
    (addr.toNat < 1024 → ∃ a, memAddress? addr = some a) ∧
    (rs.toNat < 8 → 1024 ≤ addr.toNat → Skips .memRange s (exec (.store rs addr) s)) ∧
    (8 ≤ rs.toNat → Skips .regRange s (exec (.store rs addr) s))

/-- R69(a), which the spec marks as its own inference: a LOAD after a STORE to the same address returns the byte
stored. -/
def Obligations.LoadReturnsLatestStore : Prop :=
  ∀ (rs rd : Byte) (addr : Word) (r d : Fin 8) (s : State), rs.toNat = r → rd.toNat = d → addr.toNat < 1024 →
    ∃ t u, exec (.store rs addr) s = .next t ∧ exec (.load rd addr) t = .next u ∧
      u.readReg d = BitVec.ofNat 32 ((s.readReg r).toNat % 256)

/-! Compare and control transfer. -/

/-- R181: CMP sets `zf` to whether the two registers hold the same value; a skipped CMP keeps it. -/
def Obligations.CmpSetsZeroFlag : Prop :=
  EncodedAs 7 (fun w => .cmp (w.extractLsb' 8 8) (w.extractLsb' 16 8)) ∧
  ∀ (ra rb : Byte) (s : State),
    (∀ a b : Fin 8, ra.toNat = a → rb.toNat = b →
      ∃ t, exec (.cmp ra rb) s = .next t ∧ (t.zf = true ↔ s.readReg a = s.readReg b) ∧
        ChangesOnly { zf := true } s t ∧ EndsSeq .ok s t) ∧
    (8 ≤ ra.toNat ∨ 8 ≤ rb.toNat → Skips .regRange s (exec (.cmp ra rb) s))

/-- R182: JMP goes to a target below 1024 (0 included) and is skipped at 1024 and above. -/
def Obligations.JmpGoesToTarget : Prop :=
  EncodedAs 6 (fun w => .jmp (w.extractLsb' 32 32)) ∧
  ∀ (target : Word) (s : State),
    (target.toNat < 1024 → ∃ t, exec (.jmp target) s = .next t ∧ ChangesOnly {} s t ∧ EndsJump target s t) ∧
    (1024 ≤ target.toNat → Skips .targetRange s (exec (.jmp target) s))

/-- R183: the target is checked whatever zf holds; the jump is taken when zf is 1; zf is not written. -/
def Obligations.JeJumpsOnZeroFlag : Prop :=
  EncodedAs 8 (fun w => .je (w.extractLsb' 32 32)) ∧
  ∀ (target : Word) (s : State),
    (target.toNat < 1024 → s.zf = true →
      ∃ t, exec (.je target) s = .next t ∧ ChangesOnly {} s t ∧ EndsJump target s t) ∧
    (target.toNat < 1024 → s.zf = false →
      ∃ t, exec (.je target) s = .next t ∧ ChangesOnly {} s t ∧ EndsSeq .ok s t) ∧
    (1024 ≤ target.toNat → Skips .targetRange s (exec (.je target) s))

/-! No-op, halt and output. -/

/-- R191: NOP changes only the pc. -/
def Obligations.NopChangesOnlyPc : Prop :=
  EncodedAs 0 (fun _ => .nop) ∧
  ∀ s : State, ∃ t, exec .nop s = .next t ∧ ChangesOnly {} s t ∧ EndsSeq .ok s t

/-- R192: `running` is cleared, the pc stays at the HALT, the engine is Halted. -/
def Obligations.HaltStopsTheRun : Prop :=
  EncodedAs 9 (fun _ => .halt) ∧
  ∀ s : State, ∃ t, exec .halt s = .next t ∧ t.running = false ∧ t.pc = s.pc ∧ t.engine = .halted ∧
    t.status = some .ok ∧ ChangesOnly { running := true } s t

/-- R193: the mode is checked first, then the index against the bound of its mode. -/
def Obligations.PrintEmitsRegisterOrCell : Prop :=
  EncodedAs 20 (fun w => .print (w.extractLsb' 8 8) (w.extractLsb' 32 32)) ∧
  ∀ (mode : Byte) (index : Word) (s : State),
    (∀ i : Fin 8, mode = 0 → index.toNat = i →
      ∃ t, exec (.print mode index) s = .next t ∧
        ChangesOnly { event := some (.printReg i (s.readReg i)) } s t ∧ EndsSeq .ok s t) ∧
    (∀ a : Fin 1024, mode = 1 → index.toNat = a →
      ∃ t, exec (.print mode index) s = .next t ∧
        ChangesOnly { event := some (.printMem a (s.readMem a)) } s t ∧ EndsSeq .ok s t) ∧
    (mode = 0 → 8 ≤ index.toNat → Skips .regRange s (exec (.print mode index) s)) ∧
    (mode = 1 → 1024 ≤ index.toNat → Skips .memRange s (exec (.print mode index) s)) ∧
    (2 ≤ mode.toNat → Skips .modeInvalid s (exec (.print mode index) s))

/-- R194: TDRAW_CLEAR sends `Clear`. -/
def Obligations.TdrawClearEmitsClear : Prop :=
  EncodedAs 21 (fun _ => .tdrawClear) ∧
  ∀ s : State, ∃ t, exec .tdrawClear s = .next t ∧ ChangesOnly { event := some .clear } s t ∧ EndsSeq .ok s t

/-- R195, for both values of PIXEL_SEL: the position is the values held in the selected registers. -/
def Obligations.TdrawPixelEmitsPixel : Prop :=
  EncodedAs 22 (fun w => .tdrawPixel (w.extractLsb' 32 8) (w.extractLsb' 40 8) (w.extractLsb' 48 8)) ∧
  ∀ (xsel ysel ch : Byte) (s : State),
    (∀ x y : Fin 8, s.params.pixelSel = .check → xsel.toNat = x → ysel.toNat = y →
      ∃ t, exec (.tdrawPixel xsel ysel ch) s = .next t ∧
        ChangesOnly { event := some (.pixel (s.readReg x) (s.readReg y) ch) } s t ∧ EndsSeq .ok s t) ∧
    (s.params.pixelSel = .check → 8 ≤ xsel.toNat ∨ 8 ≤ ysel.toNat →
      Skips .regRange s (exec (.tdrawPixel xsel ysel ch) s)) ∧
    (∀ x y : Fin 8, s.params.pixelSel = .mask3 → xsel.toNat % 8 = x → ysel.toNat % 8 = y →
      ∃ t, exec (.tdrawPixel xsel ysel ch) s = .next t ∧
        ChangesOnly { event := some (.pixel (s.readReg x) (s.readReg y) ch) } s t ∧ EndsSeq .ok s t)

/-! Reset and the host. -/

/-- R240: every piece of state after power-on. -/
def Obligations.PowerOnValues : Prop :=
  (∀ i : Fin 8, State.reset.readReg i = 0) ∧ State.reset.pc = 0 ∧ State.reset.zf = false ∧
  State.reset.running = true ∧ State.reset.engine = .halted ∧ State.reset.fault = false ∧
  (∀ a : Nat, a < 1024 → State.reset.readMem a = 0) ∧ (∀ k : Nat, k < 1024 → State.reset.readSlot k = 0)

/-- R243: what a run start sets, and that the registers, memory, zf and the instruction store are not changed. -/
def Obligations.RunStartKeepsRegistersAndMemory : Prop :=
  ∀ s : State, s.runStart.pc = 0 ∧ s.runStart.running = true ∧ s.runStart.fault = false ∧
    s.runStart.engine = .running ∧ (∀ i : Fin 8, s.runStart.readReg i = s.readReg i) ∧
    (∀ a : Nat, s.runStart.readMem a = s.readMem a) ∧ s.runStart.zf = s.zf ∧
    (∀ k : Nat, s.runStart.readSlot k = s.readSlot k)

/-- R248: host commands are accepted only while the engine is Halted, and an accepted one changes core state only by a
load (the instruction store) or a run start; none writes a register, a memory cell or zf. That commands are a function
beside the step and each is accepted while Halted is the model's form of them (log 15), and that a refused text leaves
the store as it was is the model's choice (log 20). -/
def Obligations.HostActsOnlyWhileHalted : Prop :=
  ∀ (s : State) (c : HostCommand),
    (s.engine = .running → s.hostCommand c = .notAccepted) ∧
    (s.engine = .halted → ∃ t r, s.hostCommand c = .accepted t r) ∧
    ∀ (t : State) (r : HostReply), s.hostCommand c = .accepted t r →
      t.regs = s.regs ∧ t.mem = s.mem ∧ t.zf = s.zf ∧
      (t = s ∨ (∃ text ws, c = .load text ∧ assembleText s.params text = some ws ∧ t = s.placeWords ws) ∨
        (c = .run ∧ t = s.runStart))

/-- R101, R244: a load of a text that assembles to n words puts them in slots 0 to n-1 in order, with n at most 1024,
and the all-zero word in every later slot; nothing else changes. -/
def Obligations.HostLoadFillsStore : Prop :=
  ∀ (s : State) (text : List Byte) (ws : List InstrWord), s.engine = .halted →
    assembleText s.params text = some ws →
    ws.length ≤ 1024 ∧
    ∃ t, s.hostCommand (.load text) = .accepted t .loaded ∧ { t with istore := s.istore } = s ∧
      (∀ (k : Nat) (h : k < ws.length), t.readSlot k = ws[k]) ∧ (∀ k : Nat, ws.length ≤ k → t.readSlot k = 0)

/-- R50: host reads while the engine is Halted: all 8 registers, or one memory byte; an address of 1024 or more is the
error "invalid address" and reads no cell; no read changes state. -/
def Obligations.HostReadsChangeNothing : Prop :=
  ∀ s : State, s.engine = .halted →
    (∃ vs, s.hostCommand .regs = .accepted s (.registers vs) ∧ vs.length = 8 ∧
      ∀ i : Fin 8, vs[(i : Nat)]? = some (s.readReg i)) ∧
    (∀ a : Nat, a < 1024 → s.hostCommand (.mem a) = .accepted s (.memByte (s.readMem a))) ∧
    (∀ a : Nat, 1024 ≤ a → s.hostCommand (.mem a) = .accepted s .invalidAddress)

/-- R245, R253: the fuel is no part of a run: a run that halts halts in the same state under any more fuel, and a run
that runs out of fuel is reported as no result, never as a halt. -/
def Obligations.FuelExhaustionIsNoHalt : Prop :=
  ∀ (n k : Nat) (s t : State), runToHalt n s = some t → t.engine = .halted ∧ runToHalt (n + k) s = some t

/-! The assembler. -/

/-- R101, and its consequence R102: the loader keeps the lines that assemble, in order, drops those that fail, and
stops when the store is full. -/
def Obligations.LoaderKeepsAssembledLinesInOrder : Prop :=
  ∀ (p : Params) (lines : List (List Byte)), (∀ l ∈ lines, ∀ why, assembleLine p l ≠ .refused why) →
    assembleLines p 1024 lines = some ((lines.filterMap (fun l =>
      match assembleLine p l with
      | .instr i => some i
      | .fails => none
      | .refused _ => none)).take 1024)

/-- R92 to R95: the fields of a line are its maximal runs of characters other than the six of ASCII whitespace, at most
four, each cut to TOKEN_MAX; a line without a field fails; a first field is a mnemonic exactly when it is spelled as one
of the 23 rows of R95, written out here with its argument count; any other first field, and a mnemonic with another
argument count, fail. -/
def Obligations.MnemonicAndArgumentCountMustMatch : Prop :=
  let space : Byte → Bool := fun c => c = 0x20 || c = 0x09 || c = 0x0A || c = 0x0D || c = 0x0B || c = 0x0C
  let rows : List (List Byte × Opcode × Nat) :=
    [(ascii ['N', 'O', 'P'], .nop, 0), (ascii ['M', 'O', 'V'], .mov, 2), (ascii ['A', 'D', 'D'], .add, 2),
     (ascii ['S', 'U', 'B'], .sub, 2), (ascii ['L', 'O', 'A', 'D'], .load, 2),
     (ascii ['S', 'T', 'O', 'R', 'E'], .store, 2), (ascii ['J', 'M', 'P'], .jmp, 1), (ascii ['C', 'M', 'P'], .cmp, 2),
     (ascii ['J', 'E'], .je, 1), (ascii ['H', 'A', 'L', 'T'], .halt, 0), (ascii ['A', 'N', 'D'], .and, 2),
     (ascii ['O', 'R', 'R'], .orr, 2), (ascii ['E', 'O', 'R'], .eor, 2), (ascii ['L', 'S', 'L'], .lsl, 2),
     (ascii ['L', 'S', 'R'], .lsr, 2), (ascii ['M', 'U', 'L'], .mul, 2), (ascii ['U', 'D', 'I', 'V'], .udiv, 2),
     (ascii ['N', 'E', 'G'], .neg, 1), (ascii ['M', 'O', 'V', 'Z'], .movz, 2), (ascii ['M', 'O', 'V', 'N'], .movn, 2),
     (ascii ['P', 'R', 'I', 'N', 'T'], .print, 2),
     (ascii ['T', 'D', 'R', 'A', 'W', '_', 'C', 'L', 'E', 'A', 'R'], .tdrawClear, 0),
     (ascii ['T', 'D', 'R', 'A', 'W', '_', 'P', 'I', 'X', 'E', 'L'], .tdrawPixel, 3)]
  (∀ (p : Params) (line : List Byte),
    lineFields p line =
      (((line.splitOnP space).filter (fun t => t ≠ [])).take 4).map (fun t => t.take (tokenBound p)) ∧
    assembleLine p line = assembleFields p (lineFields p line) ∧
    ((∀ c ∈ line, space c = true) → assembleLine p line = .fails)) ∧
  (∀ (p : Params) (n : Nat), p.tokenMax = some n → tokenBound p = n) ∧
  (∀ (m : List Byte) (o : Opcode), mnemonicOf m = some o ↔ ∃ n, (m, o, n) ∈ rows) ∧
  (∀ (p : Params) (m : List Byte) (args : List (List Byte)), mnemonicOf m = none →
    assembleFields p (m :: args) = .fails) ∧
  (∀ row ∈ rows, ∀ (p : Params) (args : List (List Byte)), args.length ≠ row.2.2 →
    assembleFields p (row.1 :: args) = .fails)

/-- The value of a decimal token as the spec's own reading R97 gives it (D27): a token is an optional sign, the digits
`ds` and a rest that begins with no digit; with no digits its value is 0, and a numeral outside the range is refused
under IMM_OVERFLOW = `refuse` and has some value under `free`. -/
def Obligations.DecimalTokensReadNumerals : Prop :=
  ∀ (p : Params) (ds : List (Fin 10)) (rest : List Byte),
    (∀ c cs, rest = c :: cs → ¬ (0x30 ≤ c.toNat ∧ c.toNat ≤ 0x39)) →
    let digits : List Byte := ds.map (fun d : Fin 10 => BitVec.ofNat 8 (0x30 + d.val))
    let n : Nat := ds.foldl (fun (a : Nat) (d : Fin 10) => a * 10 + d.val) 0
    (∀ t : List Byte,
      t = 0x2B :: (digits ++ rest) ∨
        (t = digits ++ rest ∧ (ds = [] → ∀ c cs, rest = c :: cs → c ≠ 0x2B ∧ c ≠ 0x2D)) →
      (n < 2 ^ 32 → decimalToken p t = some (BitVec.ofNat 32 n)) ∧
      (2 ^ 32 ≤ n → p.immOverflow = .refuse → decimalToken p t = none) ∧
      (2 ^ 32 ≤ n → p.immOverflow = .free → ∃ v, decimalToken p t = some v)) ∧
    (n ≤ 2 ^ 31 → decimalToken p (0x2D :: (digits ++ rest)) = some (BitVec.ofInt 32 (-(n : Int)))) ∧
    (2 ^ 31 < n → p.immOverflow = .refuse → decimalToken p (0x2D :: (digits ++ rest)) = none) ∧
    (2 ^ 31 < n → p.immOverflow = .free → ∃ v, decimalToken p (0x2D :: (digits ++ rest)) = some v)

/-- The spec's own reading R96 of a register token's index, and the two worked lines of its inference R103, with
TOKEN_MAX given as 64. -/
def Obligations.WorkedLinesAssemble : Prop :=
  (∀ (c d : Byte) (rest : List Byte), registerToken (c :: d :: rest) = BitVec.ofInt 8 ((d.toNat : Int) - 0x30)) ∧
  (∀ c : Byte, registerToken [c] = 208) ∧
  lineWord { tokenMax := some 64 } (ascii ['M', 'O', 'V', ' ', 'R', '0', ' ', '4', '2']) = some 0x0000002A00000001 ∧
  lineWord { tokenMax := some 64 } (ascii ['T', 'D', 'R', 'A', 'W', '_', 'P', 'I', 'X', 'E', 'L', ' ', 'R', '1', ' ',
    'R', '2', ' ', '*']) = some 0x002A020100000016

/-- R95, R98, R99, with each spelling, opcode value and field written out: the word every mnemonic's line becomes. A
register token `r` gives the index of R96 and a decimal token `n` the value of R97; a decimal token without a value
refuses the line (log 12). Every field a row does not name is 0. -/
def Obligations.TableRowsAssembleToTheirWords : Prop :=
  ∀ (p : Params) (r q n : List Byte) (ch : Byte) (rest : List Byte),
    (∀ row ∈ [(ascii ['N', 'O', 'P'], 0), (ascii ['H', 'A', 'L', 'T'], 9),
        (ascii ['T', 'D', 'R', 'A', 'W', '_', 'C', 'L', 'E', 'A', 'R'], 21)],
      AssemblesTo p [row.1] row.2 0 0 0) ∧
    (∀ row ∈ [(ascii ['A', 'D', 'D'], 2), (ascii ['S', 'U', 'B'], 3), (ascii ['C', 'M', 'P'], 7),
        (ascii ['A', 'N', 'D'], 10), (ascii ['O', 'R', 'R'], 11), (ascii ['E', 'O', 'R'], 12),
        (ascii ['M', 'U', 'L'], 15), (ascii ['U', 'D', 'I', 'V'], 16)],
      AssemblesTo p [row.1, r, q] row.2 (registerToken r) (registerToken q) 0) ∧
    AssemblesTo p [ascii ['N', 'E', 'G'], r] 17 (registerToken r) 0 0 ∧
    (∀ row ∈ [(ascii ['M', 'O', 'V'], 1), (ascii ['L', 'O', 'A', 'D'], 4), (ascii ['S', 'T', 'O', 'R', 'E'], 5),
        (ascii ['L', 'S', 'L'], 13), (ascii ['L', 'S', 'R'], 14), (ascii ['M', 'O', 'V', 'Z'], 18),
        (ascii ['M', 'O', 'V', 'N'], 19)],
      (∀ v, decimalToken p n = some v → AssemblesTo p [row.1, r, n] row.2 (registerToken r) 0 v) ∧
      (decimalToken p n = none → assembleFields p [row.1, r, n] = .refused .immOverflow)) ∧
    (∀ row ∈ [(ascii ['J', 'M', 'P'], 6), (ascii ['J', 'E'], 8)],
      (∀ v, decimalToken p n = some v → AssemblesTo p [row.1, n] row.2 0 0 v) ∧
      (decimalToken p n = none → assembleFields p [row.1, n] = .refused .immOverflow)) ∧
    (∀ key ∈ [(ascii ['R', 'E', 'G'], 0), (ascii ['M', 'E', 'M'], 1)],
      (∀ v, decimalToken p n = some v →
        AssemblesTo p [ascii ['P', 'R', 'I', 'N', 'T'], key.1, n] 20 key.2 0 v) ∧
      (decimalToken p n = none →
        assembleFields p [ascii ['P', 'R', 'I', 'N', 'T'], key.1, n] = .refused .immOverflow)) ∧
    (r ≠ ascii ['R', 'E', 'G'] → r ≠ ascii ['M', 'E', 'M'] →
      assembleFields p [ascii ['P', 'R', 'I', 'N', 'T'], r, n] = .fails) ∧
    AssemblesTo p [ascii ['T', 'D', 'R', 'A', 'W', '_', 'P', 'I', 'X', 'E', 'L'], r, q, ch :: rest] 22 0 0
      (BitVec.ofNat 32 ((registerToken r).toNat + (registerToken q).toNat * 2 ^ 8 + ch.toNat * 2 ^ 16))
end

