-- ==== Sys2Proof/Laws/Decode.lean ====
section
/-! SUPPORT. The opcode map and the fields of a packed word. -/

namespace Sys2Proof

@[simp] theorem Opcode.ofByte_toByte (o : Opcode) : Opcode.ofByte o.toByte = some o := by
  cases o <;> rfl

/-- Exactly the values 0..22 are defined (R86, R88). -/
theorem Opcode.ofByte_eq_none_iff (b : Byte) : Opcode.ofByte b = none ↔ 23 ≤ b.toNat := by
  revert b; decide

@[simp] theorem wordOpcode_packWord (op r1 r2 : Byte) (imm : Word) : wordOpcode (packWord op r1 r2 imm) = op := by
  apply BitVec.eq_of_getLsbD_eq
  intro i hi
  have h0 : i < 64 := by omega
  have h1 : i < 16 := by omega
  have h2 : i < 32 := by omega
  simp [wordOpcode, packWord, hi, h0, h1, h2]

@[simp] theorem wordR1_packWord (op r1 r2 : Byte) (imm : Word) : wordR1 (packWord op r1 r2 imm) = r1 := by
  apply BitVec.eq_of_getLsbD_eq
  intro i hi
  have h0 : 8 + i < 64 := by omega
  have h1 : 8 + i < 16 := by omega
  have h2 : 8 + i < 32 := by omega
  simp [wordR1, packWord, hi, h0, h1, h2]

@[simp] theorem wordR2_packWord (op r1 r2 : Byte) (imm : Word) : wordR2 (packWord op r1 r2 imm) = r2 := by
  apply BitVec.eq_of_getLsbD_eq
  intro i hi
  have h0 : 16 + i < 64 := by omega
  have h1 : 16 + i - 8 = 8 + i := by omega
  have h2 : 16 + i < 32 := by omega
  simp [wordR2, packWord, hi, h0, h1, h2, BitVec.getLsbD_of_ge op (16 + i) (by omega)]

@[simp] theorem wordImm_packWord (op r1 r2 : Byte) (imm : Word) : wordImm (packWord op r1 r2 imm) = imm := by
  apply BitVec.eq_of_getLsbD_eq
  intro i hi
  have h0 : 32 + i < 64 := by omega
  have h1 : 32 + i - 8 = 8 + (16 + i) := by omega
  have h2 : 32 + i - 16 = 8 + (8 + i) := by omega
  simp [wordImm, packWord, hi, h0, h1, h2, BitVec.getLsbD_of_ge op (32 + i) (by omega)]

/-- A pixel immediate gives back its three fields (R85). -/
@[simp] theorem immXsel_packPixel (x y c : Byte) : immXsel (packPixel x y c) = x := by
  apply BitVec.eq_of_getLsbD_eq
  intro i hi
  have h0 : i < 32 := by omega
  have h1 : i < 16 := by omega
  simp [immXsel, packPixel, hi, h0, h1]

@[simp] theorem immYsel_packPixel (x y c : Byte) : immYsel (packPixel x y c) = y := by
  apply BitVec.eq_of_getLsbD_eq
  intro i hi
  have h0 : 8 + i < 32 := by omega
  have h1 : 8 + i < 16 := by omega
  simp [immYsel, packPixel, hi, h0, h1]

@[simp] theorem immCh_packPixel (x y c : Byte) : immCh (packPixel x y c) = c := by
  apply BitVec.eq_of_getLsbD_eq
  intro i hi
  have h0 : 16 + i < 32 := by omega
  have h1 : 16 + i - 8 = 8 + i := by omega
  simp [immCh, packPixel, hi, h0, h1, BitVec.getLsbD_of_ge x (16 + i) (by omega)]

/-- What decoding does, once: a defined opcode selects the operation, an undefined one is named (R82, R88). -/
theorem decode_cases (w : InstrWord) :
    (∃ o, Opcode.ofByte (wordOpcode w) = some o ∧ decode w = .ok (buildInstr o (wordR1 w) (wordR2 w) (wordImm w))) ∨
    (23 ≤ (wordOpcode w).toNat ∧ decode w = .error (.illegalOpcode (wordOpcode w))) := by
  cases h : Opcode.ofByte (wordOpcode w) with
  | some o => exact .inl ⟨o, rfl, by simp [decode, h]⟩
  | none => exact .inr ⟨(Opcode.ofByte_eq_none_iff _).mp h, by simp [decode, h]⟩

/-- Fields that do not overlap: their sum is their union. -/
theorem mul_pow_or_eq_add (a b k : Nat) (h : b < 2 ^ k) : a * 2 ^ k ||| b = a * 2 ^ k + b := by
  rw [← Nat.shiftLeft_eq]; exact (Nat.shiftLeft_add_eq_or_of_lt h a).symm

/-- A packed word as the number R81's layout gives it. -/
theorem packWord_eq_ofNat (op r1 r2 : Byte) (imm : Word) : packWord op r1 r2 imm =
    BitVec.ofNat 64 (imm.toNat * 2 ^ 32 + r2.toNat * 2 ^ 16 + r1.toNat * 2 ^ 8 + op.toNat) := by
  apply BitVec.eq_of_toNat_eq
  have h1 := op.isLt; have h2 := r1.isLt; have h3 := r2.isLt; have h4 := imm.isLt
  simp only [packWord, BitVec.toNat_or, BitVec.toNat_shiftLeft, BitVec.toNat_setWidth, BitVec.toNat_ofNat,
    Nat.shiftLeft_eq]
  rw [Nat.mod_eq_of_lt (a := imm.toNat) (by omega), Nat.mod_eq_of_lt (a := r2.toNat) (by omega),
    Nat.mod_eq_of_lt (a := r1.toNat) (by omega), Nat.mod_eq_of_lt (a := op.toNat) (by omega),
    Nat.mod_eq_of_lt (a := imm.toNat * _) (by omega), Nat.mod_eq_of_lt (a := r2.toNat * _) (by omega),
    Nat.mod_eq_of_lt (a := r1.toNat * _) (by omega), Nat.mod_eq_of_lt (by omega), mul_pow_or_eq_add _ _ _ (by omega)]
  have e1 := mul_pow_or_eq_add (imm.toNat * 2 ^ 16 + r2.toNat) (r1.toNat * 2 ^ 8) 16 (by omega)
  have e2 := mul_pow_or_eq_add (imm.toNat * 2 ^ 24 + r2.toNat * 2 ^ 8 + r1.toNat) op.toNat 8 (by omega)
  rw [show imm.toNat * 2 ^ 32 + r2.toNat * 2 ^ 16 = (imm.toNat * 2 ^ 16 + r2.toNat) * 2 ^ 16 by omega, e1]
  rw [show (imm.toNat * 2 ^ 16 + r2.toNat) * 2 ^ 16 + r1.toNat * 2 ^ 8 =
    (imm.toNat * 2 ^ 24 + r2.toNat * 2 ^ 8 + r1.toNat) * 2 ^ 8 by omega, e2]

/-- A packed TDRAW_PIXEL immediate as the number R99 gives. -/
theorem packPixel_eq_ofNat (x y c : Byte) : packPixel x y c =
    BitVec.ofNat 32 (x.toNat + y.toNat * 2 ^ 8 + c.toNat * 2 ^ 16) := by
  apply BitVec.eq_of_toNat_eq
  have h1 := x.isLt; have h2 := y.isLt; have h3 := c.isLt
  simp only [packPixel, BitVec.toNat_or, BitVec.toNat_shiftLeft, BitVec.toNat_setWidth, BitVec.toNat_ofNat,
    Nat.shiftLeft_eq]
  rw [Nat.mod_eq_of_lt (a := x.toNat) (by omega), Nat.mod_eq_of_lt (a := y.toNat) (by omega),
    Nat.mod_eq_of_lt (a := c.toNat) (by omega), Nat.mod_eq_of_lt (a := y.toNat * _) (by omega),
    Nat.mod_eq_of_lt (a := c.toNat * _) (by omega), Nat.mod_eq_of_lt (by omega), Nat.or_comm, Nat.or_comm x.toNat,
    mul_pow_or_eq_add y.toNat x.toNat 8 (by omega), mul_pow_or_eq_add _ _ _ (by omega)]
  omega

end Sys2Proof
end

