-- ==== Sys2Proof/Laws/State.lean ====
section
/-! SUPPORT. One lemma per field per update of the state, each true by rfl, so that no proof unfolds a record update; and
the reads through each update that leaves what they read. -/

namespace Sys2Proof.Machine

/-! writeReg -/

@[simp] theorem State.writeReg_regs (s : State) (i : Fin 8) (v : Word) : (s.writeReg i v).regs = s.regs.set i v := rfl
@[simp] theorem State.writeReg_pc (s : State) (i : Fin 8) (v : Word) : (s.writeReg i v).pc = s.pc := rfl
@[simp] theorem State.writeReg_zf (s : State) (i : Fin 8) (v : Word) : (s.writeReg i v).zf = s.zf := rfl
@[simp] theorem State.writeReg_running (s : State) (i : Fin 8) (v : Word) : (s.writeReg i v).running = s.running := rfl
@[simp] theorem State.writeReg_engine (s : State) (i : Fin 8) (v : Word) : (s.writeReg i v).engine = s.engine := rfl
@[simp] theorem State.writeReg_fault (s : State) (i : Fin 8) (v : Word) : (s.writeReg i v).fault = s.fault := rfl
@[simp] theorem State.writeReg_mem (s : State) (i : Fin 8) (v : Word) : (s.writeReg i v).mem = s.mem := rfl
@[simp] theorem State.writeReg_istore (s : State) (i : Fin 8) (v : Word) : (s.writeReg i v).istore = s.istore := rfl
@[simp] theorem State.writeReg_status (s : State) (i : Fin 8) (v : Word) : (s.writeReg i v).status = s.status := rfl
@[simp] theorem State.writeReg_events (s : State) (i : Fin 8) (v : Word) : (s.writeReg i v).events = s.events := rfl
@[simp] theorem State.writeReg_params (s : State) (i : Fin 8) (v : Word) : (s.writeReg i v).params = s.params := rfl
@[simp] theorem State.writeReg_draws (s : State) (i : Fin 8) (v : Word) : (s.writeReg i v).draws = s.draws := rfl
@[simp] theorem State.readMem_writeReg (s : State) (i : Fin 8) (v : Word) (n : Nat) : (s.writeReg i v).readMem n = s.readMem n := rfl
@[simp] theorem State.readSlot_writeReg (s : State) (i : Fin 8) (v : Word) (n : Nat) : (s.writeReg i v).readSlot n = s.readSlot n := rfl

/-! writeMem -/

@[simp] theorem State.writeMem_regs (s : State) (a : Nat) (v : Byte) : (s.writeMem a v).regs = s.regs := rfl
@[simp] theorem State.writeMem_pc (s : State) (a : Nat) (v : Byte) : (s.writeMem a v).pc = s.pc := rfl
@[simp] theorem State.writeMem_zf (s : State) (a : Nat) (v : Byte) : (s.writeMem a v).zf = s.zf := rfl
@[simp] theorem State.writeMem_running (s : State) (a : Nat) (v : Byte) : (s.writeMem a v).running = s.running := rfl
@[simp] theorem State.writeMem_engine (s : State) (a : Nat) (v : Byte) : (s.writeMem a v).engine = s.engine := rfl
@[simp] theorem State.writeMem_fault (s : State) (a : Nat) (v : Byte) : (s.writeMem a v).fault = s.fault := rfl
@[simp] theorem State.writeMem_mem (s : State) (a : Nat) (v : Byte) : (s.writeMem a v).mem = Sparse.set s.mem a v := rfl
@[simp] theorem State.writeMem_istore (s : State) (a : Nat) (v : Byte) : (s.writeMem a v).istore = s.istore := rfl
@[simp] theorem State.writeMem_status (s : State) (a : Nat) (v : Byte) : (s.writeMem a v).status = s.status := rfl
@[simp] theorem State.writeMem_events (s : State) (a : Nat) (v : Byte) : (s.writeMem a v).events = s.events := rfl
@[simp] theorem State.writeMem_params (s : State) (a : Nat) (v : Byte) : (s.writeMem a v).params = s.params := rfl
@[simp] theorem State.writeMem_draws (s : State) (a : Nat) (v : Byte) : (s.writeMem a v).draws = s.draws := rfl
@[simp] theorem State.readReg_writeMem (s : State) (a : Nat) (v : Byte) (j : Fin 8) : (s.writeMem a v).readReg j = s.readReg j := rfl
@[simp] theorem State.readSlot_writeMem (s : State) (a : Nat) (v : Byte) (n : Nat) : (s.writeMem a v).readSlot n = s.readSlot n := rfl

/-! writeSlot -/

@[simp] theorem State.writeSlot_regs (s : State) (k : Nat) (v : InstrWord) : (s.writeSlot k v).regs = s.regs := rfl
@[simp] theorem State.writeSlot_pc (s : State) (k : Nat) (v : InstrWord) : (s.writeSlot k v).pc = s.pc := rfl
@[simp] theorem State.writeSlot_zf (s : State) (k : Nat) (v : InstrWord) : (s.writeSlot k v).zf = s.zf := rfl
@[simp] theorem State.writeSlot_running (s : State) (k : Nat) (v : InstrWord) : (s.writeSlot k v).running = s.running := rfl
@[simp] theorem State.writeSlot_engine (s : State) (k : Nat) (v : InstrWord) : (s.writeSlot k v).engine = s.engine := rfl
@[simp] theorem State.writeSlot_fault (s : State) (k : Nat) (v : InstrWord) : (s.writeSlot k v).fault = s.fault := rfl
@[simp] theorem State.writeSlot_mem (s : State) (k : Nat) (v : InstrWord) : (s.writeSlot k v).mem = s.mem := rfl
@[simp] theorem State.writeSlot_istore (s : State) (k : Nat) (v : InstrWord) : (s.writeSlot k v).istore = Sparse.set s.istore k v := rfl
@[simp] theorem State.writeSlot_status (s : State) (k : Nat) (v : InstrWord) : (s.writeSlot k v).status = s.status := rfl
@[simp] theorem State.writeSlot_events (s : State) (k : Nat) (v : InstrWord) : (s.writeSlot k v).events = s.events := rfl
@[simp] theorem State.writeSlot_params (s : State) (k : Nat) (v : InstrWord) : (s.writeSlot k v).params = s.params := rfl
@[simp] theorem State.writeSlot_draws (s : State) (k : Nat) (v : InstrWord) : (s.writeSlot k v).draws = s.draws := rfl
@[simp] theorem State.readReg_writeSlot (s : State) (k : Nat) (v : InstrWord) (j : Fin 8) : (s.writeSlot k v).readReg j = s.readReg j := rfl
@[simp] theorem State.readMem_writeSlot (s : State) (k : Nat) (v : InstrWord) (n : Nat) : (s.writeSlot k v).readMem n = s.readMem n := rfl

/-! setPc -/

@[simp] theorem State.setPc_regs (s : State) (v : Word) : (s.setPc v).regs = s.regs := rfl
@[simp] theorem State.setPc_pc (s : State) (v : Word) : (s.setPc v).pc = v := rfl
@[simp] theorem State.setPc_zf (s : State) (v : Word) : (s.setPc v).zf = s.zf := rfl
@[simp] theorem State.setPc_running (s : State) (v : Word) : (s.setPc v).running = s.running := rfl
@[simp] theorem State.setPc_engine (s : State) (v : Word) : (s.setPc v).engine = s.engine := rfl
@[simp] theorem State.setPc_fault (s : State) (v : Word) : (s.setPc v).fault = s.fault := rfl
@[simp] theorem State.setPc_mem (s : State) (v : Word) : (s.setPc v).mem = s.mem := rfl
@[simp] theorem State.setPc_istore (s : State) (v : Word) : (s.setPc v).istore = s.istore := rfl
@[simp] theorem State.setPc_status (s : State) (v : Word) : (s.setPc v).status = s.status := rfl
@[simp] theorem State.setPc_events (s : State) (v : Word) : (s.setPc v).events = s.events := rfl
@[simp] theorem State.setPc_params (s : State) (v : Word) : (s.setPc v).params = s.params := rfl
@[simp] theorem State.setPc_draws (s : State) (v : Word) : (s.setPc v).draws = s.draws := rfl
@[simp] theorem State.readReg_setPc (s : State) (v : Word) (j : Fin 8) : (s.setPc v).readReg j = s.readReg j := rfl
@[simp] theorem State.readMem_setPc (s : State) (v : Word) (n : Nat) : (s.setPc v).readMem n = s.readMem n := rfl
@[simp] theorem State.readSlot_setPc (s : State) (v : Word) (n : Nat) : (s.setPc v).readSlot n = s.readSlot n := rfl

/-! setZf -/

@[simp] theorem State.setZf_regs (s : State) (b : Bool) : (s.setZf b).regs = s.regs := rfl
@[simp] theorem State.setZf_pc (s : State) (b : Bool) : (s.setZf b).pc = s.pc := rfl
@[simp] theorem State.setZf_zf (s : State) (b : Bool) : (s.setZf b).zf = b := rfl
@[simp] theorem State.setZf_running (s : State) (b : Bool) : (s.setZf b).running = s.running := rfl
@[simp] theorem State.setZf_engine (s : State) (b : Bool) : (s.setZf b).engine = s.engine := rfl
@[simp] theorem State.setZf_fault (s : State) (b : Bool) : (s.setZf b).fault = s.fault := rfl
@[simp] theorem State.setZf_mem (s : State) (b : Bool) : (s.setZf b).mem = s.mem := rfl
@[simp] theorem State.setZf_istore (s : State) (b : Bool) : (s.setZf b).istore = s.istore := rfl
@[simp] theorem State.setZf_status (s : State) (b : Bool) : (s.setZf b).status = s.status := rfl
@[simp] theorem State.setZf_events (s : State) (b : Bool) : (s.setZf b).events = s.events := rfl
@[simp] theorem State.setZf_params (s : State) (b : Bool) : (s.setZf b).params = s.params := rfl
@[simp] theorem State.setZf_draws (s : State) (b : Bool) : (s.setZf b).draws = s.draws := rfl
@[simp] theorem State.readReg_setZf (s : State) (b : Bool) (j : Fin 8) : (s.setZf b).readReg j = s.readReg j := rfl
@[simp] theorem State.readMem_setZf (s : State) (b : Bool) (n : Nat) : (s.setZf b).readMem n = s.readMem n := rfl
@[simp] theorem State.readSlot_setZf (s : State) (b : Bool) (n : Nat) : (s.setZf b).readSlot n = s.readSlot n := rfl

/-! setRunning -/

@[simp] theorem State.setRunning_regs (s : State) (b : Bool) : (s.setRunning b).regs = s.regs := rfl
@[simp] theorem State.setRunning_pc (s : State) (b : Bool) : (s.setRunning b).pc = s.pc := rfl
@[simp] theorem State.setRunning_zf (s : State) (b : Bool) : (s.setRunning b).zf = s.zf := rfl
@[simp] theorem State.setRunning_running (s : State) (b : Bool) : (s.setRunning b).running = b := rfl
@[simp] theorem State.setRunning_engine (s : State) (b : Bool) : (s.setRunning b).engine = s.engine := rfl
@[simp] theorem State.setRunning_fault (s : State) (b : Bool) : (s.setRunning b).fault = s.fault := rfl
@[simp] theorem State.setRunning_mem (s : State) (b : Bool) : (s.setRunning b).mem = s.mem := rfl
@[simp] theorem State.setRunning_istore (s : State) (b : Bool) : (s.setRunning b).istore = s.istore := rfl
@[simp] theorem State.setRunning_status (s : State) (b : Bool) : (s.setRunning b).status = s.status := rfl
@[simp] theorem State.setRunning_events (s : State) (b : Bool) : (s.setRunning b).events = s.events := rfl
@[simp] theorem State.setRunning_params (s : State) (b : Bool) : (s.setRunning b).params = s.params := rfl
@[simp] theorem State.setRunning_draws (s : State) (b : Bool) : (s.setRunning b).draws = s.draws := rfl
@[simp] theorem State.readReg_setRunning (s : State) (b : Bool) (j : Fin 8) : (s.setRunning b).readReg j = s.readReg j := rfl
@[simp] theorem State.readMem_setRunning (s : State) (b : Bool) (n : Nat) : (s.setRunning b).readMem n = s.readMem n := rfl
@[simp] theorem State.readSlot_setRunning (s : State) (b : Bool) (n : Nat) : (s.setRunning b).readSlot n = s.readSlot n := rfl

/-! setEngine -/

@[simp] theorem State.setEngine_regs (s : State) (e : Engine) : (s.setEngine e).regs = s.regs := rfl
@[simp] theorem State.setEngine_pc (s : State) (e : Engine) : (s.setEngine e).pc = s.pc := rfl
@[simp] theorem State.setEngine_zf (s : State) (e : Engine) : (s.setEngine e).zf = s.zf := rfl
@[simp] theorem State.setEngine_running (s : State) (e : Engine) : (s.setEngine e).running = s.running := rfl
@[simp] theorem State.setEngine_engine (s : State) (e : Engine) : (s.setEngine e).engine = e := rfl
@[simp] theorem State.setEngine_fault (s : State) (e : Engine) : (s.setEngine e).fault = s.fault := rfl
@[simp] theorem State.setEngine_mem (s : State) (e : Engine) : (s.setEngine e).mem = s.mem := rfl
@[simp] theorem State.setEngine_istore (s : State) (e : Engine) : (s.setEngine e).istore = s.istore := rfl
@[simp] theorem State.setEngine_status (s : State) (e : Engine) : (s.setEngine e).status = s.status := rfl
@[simp] theorem State.setEngine_events (s : State) (e : Engine) : (s.setEngine e).events = s.events := rfl
@[simp] theorem State.setEngine_params (s : State) (e : Engine) : (s.setEngine e).params = s.params := rfl
@[simp] theorem State.setEngine_draws (s : State) (e : Engine) : (s.setEngine e).draws = s.draws := rfl
@[simp] theorem State.readReg_setEngine (s : State) (e : Engine) (j : Fin 8) : (s.setEngine e).readReg j = s.readReg j := rfl
@[simp] theorem State.readMem_setEngine (s : State) (e : Engine) (n : Nat) : (s.setEngine e).readMem n = s.readMem n := rfl
@[simp] theorem State.readSlot_setEngine (s : State) (e : Engine) (n : Nat) : (s.setEngine e).readSlot n = s.readSlot n := rfl

/-! setFault -/

@[simp] theorem State.setFault_regs (s : State) (b : Bool) : (s.setFault b).regs = s.regs := rfl
@[simp] theorem State.setFault_pc (s : State) (b : Bool) : (s.setFault b).pc = s.pc := rfl
@[simp] theorem State.setFault_zf (s : State) (b : Bool) : (s.setFault b).zf = s.zf := rfl
@[simp] theorem State.setFault_running (s : State) (b : Bool) : (s.setFault b).running = s.running := rfl
@[simp] theorem State.setFault_engine (s : State) (b : Bool) : (s.setFault b).engine = s.engine := rfl
@[simp] theorem State.setFault_fault (s : State) (b : Bool) : (s.setFault b).fault = b := rfl
@[simp] theorem State.setFault_mem (s : State) (b : Bool) : (s.setFault b).mem = s.mem := rfl
@[simp] theorem State.setFault_istore (s : State) (b : Bool) : (s.setFault b).istore = s.istore := rfl
@[simp] theorem State.setFault_status (s : State) (b : Bool) : (s.setFault b).status = s.status := rfl
@[simp] theorem State.setFault_events (s : State) (b : Bool) : (s.setFault b).events = s.events := rfl
@[simp] theorem State.setFault_params (s : State) (b : Bool) : (s.setFault b).params = s.params := rfl
@[simp] theorem State.setFault_draws (s : State) (b : Bool) : (s.setFault b).draws = s.draws := rfl
@[simp] theorem State.readReg_setFault (s : State) (b : Bool) (j : Fin 8) : (s.setFault b).readReg j = s.readReg j := rfl
@[simp] theorem State.readMem_setFault (s : State) (b : Bool) (n : Nat) : (s.setFault b).readMem n = s.readMem n := rfl
@[simp] theorem State.readSlot_setFault (s : State) (b : Bool) (n : Nat) : (s.setFault b).readSlot n = s.readSlot n := rfl

/-! report -/

@[simp] theorem State.report_regs (s : State) (c : Status) : (s.report c).regs = s.regs := rfl
@[simp] theorem State.report_pc (s : State) (c : Status) : (s.report c).pc = s.pc := rfl
@[simp] theorem State.report_zf (s : State) (c : Status) : (s.report c).zf = s.zf := rfl
@[simp] theorem State.report_running (s : State) (c : Status) : (s.report c).running = s.running := rfl
@[simp] theorem State.report_engine (s : State) (c : Status) : (s.report c).engine = s.engine := rfl
@[simp] theorem State.report_fault (s : State) (c : Status) : (s.report c).fault = s.fault := rfl
@[simp] theorem State.report_mem (s : State) (c : Status) : (s.report c).mem = s.mem := rfl
@[simp] theorem State.report_istore (s : State) (c : Status) : (s.report c).istore = s.istore := rfl
@[simp] theorem State.report_status (s : State) (c : Status) : (s.report c).status = some c := rfl
@[simp] theorem State.report_events (s : State) (c : Status) : (s.report c).events = s.events := rfl
@[simp] theorem State.report_params (s : State) (c : Status) : (s.report c).params = s.params := rfl
@[simp] theorem State.report_draws (s : State) (c : Status) : (s.report c).draws = s.draws := rfl
@[simp] theorem State.readReg_report (s : State) (c : Status) (j : Fin 8) : (s.report c).readReg j = s.readReg j := rfl
@[simp] theorem State.readMem_report (s : State) (c : Status) (n : Nat) : (s.report c).readMem n = s.readMem n := rfl
@[simp] theorem State.readSlot_report (s : State) (c : Status) (n : Nat) : (s.report c).readSlot n = s.readSlot n := rfl

/-! emit -/

@[simp] theorem State.emit_regs (s : State) (e : Event) : (s.emit e).regs = s.regs := rfl
@[simp] theorem State.emit_pc (s : State) (e : Event) : (s.emit e).pc = s.pc := rfl
@[simp] theorem State.emit_zf (s : State) (e : Event) : (s.emit e).zf = s.zf := rfl
@[simp] theorem State.emit_running (s : State) (e : Event) : (s.emit e).running = s.running := rfl
@[simp] theorem State.emit_engine (s : State) (e : Event) : (s.emit e).engine = s.engine := rfl
@[simp] theorem State.emit_fault (s : State) (e : Event) : (s.emit e).fault = s.fault := rfl
@[simp] theorem State.emit_mem (s : State) (e : Event) : (s.emit e).mem = s.mem := rfl
@[simp] theorem State.emit_istore (s : State) (e : Event) : (s.emit e).istore = s.istore := rfl
@[simp] theorem State.emit_status (s : State) (e : Event) : (s.emit e).status = s.status := rfl
@[simp] theorem State.emit_events (s : State) (e : Event) : (s.emit e).events = s.events ++ [e] := rfl
@[simp] theorem State.emit_params (s : State) (e : Event) : (s.emit e).params = s.params := rfl
@[simp] theorem State.emit_draws (s : State) (e : Event) : (s.emit e).draws = s.draws := rfl
@[simp] theorem State.readReg_emit (s : State) (e : Event) (j : Fin 8) : (s.emit e).readReg j = s.readReg j := rfl
@[simp] theorem State.readMem_emit (s : State) (e : Event) (n : Nat) : (s.emit e).readMem n = s.readMem n := rfl
@[simp] theorem State.readSlot_emit (s : State) (e : Event) (n : Nat) : (s.emit e).readSlot n = s.readSlot n := rfl

/-! countDraw -/

@[simp] theorem State.countDraw_regs (s : State) : s.countDraw.regs = s.regs := rfl
@[simp] theorem State.countDraw_pc (s : State) : s.countDraw.pc = s.pc := rfl
@[simp] theorem State.countDraw_zf (s : State) : s.countDraw.zf = s.zf := rfl
@[simp] theorem State.countDraw_running (s : State) : s.countDraw.running = s.running := rfl
@[simp] theorem State.countDraw_engine (s : State) : s.countDraw.engine = s.engine := rfl
@[simp] theorem State.countDraw_fault (s : State) : s.countDraw.fault = s.fault := rfl
@[simp] theorem State.countDraw_mem (s : State) : s.countDraw.mem = s.mem := rfl
@[simp] theorem State.countDraw_istore (s : State) : s.countDraw.istore = s.istore := rfl
@[simp] theorem State.countDraw_status (s : State) : s.countDraw.status = s.status := rfl
@[simp] theorem State.countDraw_events (s : State) : s.countDraw.events = s.events := rfl
@[simp] theorem State.countDraw_params (s : State) : s.countDraw.params = s.params := rfl
@[simp] theorem State.countDraw_draws (s : State) : s.countDraw.draws = s.draws + 1 := rfl
@[simp] theorem State.readReg_countDraw (s : State) (j : Fin 8) : s.countDraw.readReg j = s.readReg j := rfl
@[simp] theorem State.readMem_countDraw (s : State) (n : Nat) : s.countDraw.readMem n = s.readMem n := rfl
@[simp] theorem State.readSlot_countDraw (s : State) (n : Nat) : s.countDraw.readSlot n = s.readSlot n := rfl

/-! placeWords -/

@[simp] theorem State.placeWords_regs (s : State) (ws : List InstrWord) : (s.placeWords ws).regs = s.regs := rfl
@[simp] theorem State.placeWords_pc (s : State) (ws : List InstrWord) : (s.placeWords ws).pc = s.pc := rfl
@[simp] theorem State.placeWords_zf (s : State) (ws : List InstrWord) : (s.placeWords ws).zf = s.zf := rfl
@[simp] theorem State.placeWords_running (s : State) (ws : List InstrWord) : (s.placeWords ws).running = s.running := rfl
@[simp] theorem State.placeWords_engine (s : State) (ws : List InstrWord) : (s.placeWords ws).engine = s.engine := rfl
@[simp] theorem State.placeWords_fault (s : State) (ws : List InstrWord) : (s.placeWords ws).fault = s.fault := rfl
@[simp] theorem State.placeWords_mem (s : State) (ws : List InstrWord) : (s.placeWords ws).mem = s.mem := rfl
@[simp] theorem State.placeWords_istore (s : State) (ws : List InstrWord) : (s.placeWords ws).istore = Sparse.ofList 0 (ws.take Config.storeSlots) := rfl
@[simp] theorem State.placeWords_status (s : State) (ws : List InstrWord) : (s.placeWords ws).status = s.status := rfl
@[simp] theorem State.placeWords_events (s : State) (ws : List InstrWord) : (s.placeWords ws).events = s.events := rfl
@[simp] theorem State.placeWords_params (s : State) (ws : List InstrWord) : (s.placeWords ws).params = s.params := rfl
@[simp] theorem State.placeWords_draws (s : State) (ws : List InstrWord) : (s.placeWords ws).draws = s.draws := rfl
@[simp] theorem State.readReg_placeWords (s : State) (ws : List InstrWord) (j : Fin 8) : (s.placeWords ws).readReg j = s.readReg j := rfl
@[simp] theorem State.readMem_placeWords (s : State) (ws : List InstrWord) (n : Nat) : (s.placeWords ws).readMem n = s.readMem n := rfl

end Sys2Proof.Machine
end

