-- ==== Sys2Proof/Laws/Sparse.lean ====
section
/-! SUPPORT. The laws of the sparse stores behind the data memory and the instruction store: a read after a write gives the
value written, a write leaves every other index alone, every operation keeps the canonical form, and two canonical stores
that read alike are equal. -/

namespace Sys2Proof.Machine

variable {w : Nat}

theorem Sparse.get_erase_self (l : List (Nat × BitVec w)) (a : Nat) : Sparse.get (Sparse.erase l a) a = 0#w := by
  induction l with
  | nil => rfl
  | cons p l ih =>
    obtain ⟨b, v⟩ := p
    by_cases h : a = b
    · simp [Sparse.erase, h]; simpa [h] using ih
    · simp [Sparse.erase, Sparse.get, h, ih]

theorem Sparse.get_erase_other (l : List (Nat × BitVec w)) {a b : Nat} (h : b ≠ a) :
    Sparse.get (Sparse.erase l a) b = Sparse.get l b := by
  induction l with
  | nil => rfl
  | cons p l ih =>
    obtain ⟨c, v⟩ := p
    by_cases hc : a = c
    · subst hc; simp [Sparse.erase, Sparse.get, h, ih]
    · simp [Sparse.erase, Sparse.get, hc, ih]

theorem Sparse.get_insert_other (l : List (Nat × BitVec w)) {a b : Nat} (v : BitVec w) (h : b ≠ a) :
    Sparse.get (Sparse.insert l a v) b = Sparse.get l b := by
  induction l with
  | nil => simp [Sparse.insert, Sparse.get, h]
  | cons p l ih =>
    obtain ⟨c, x⟩ := p
    by_cases hc : a < c
    · simp [Sparse.insert, hc, Sparse.get, h]
    · simp [Sparse.insert, hc, Sparse.get, ih]

theorem Sparse.get_insert_erase (l : List (Nat × BitVec w)) (a : Nat) (v : BitVec w) :
    Sparse.get (Sparse.insert (Sparse.erase l a) a v) a = v := by
  induction l with
  | nil => simp [Sparse.erase, Sparse.insert, Sparse.get]
  | cons p l ih =>
    obtain ⟨c, x⟩ := p
    by_cases hc : a = c
    · simp only [Sparse.erase, hc, if_true]; simpa [hc] using ih
    · by_cases hl : a < c
      · simp [Sparse.erase, hc, Sparse.insert, hl, Sparse.get]
      · simp [Sparse.erase, hc, Sparse.insert, hl, Sparse.get, ih]

@[simp] theorem Sparse.get_set_self (l : List (Nat × BitVec w)) (a : Nat) (v : BitVec w) :
    Sparse.get (Sparse.set l a v) a = v := by
  by_cases h : v = 0#w
  · simp [Sparse.set, h, Sparse.get_erase_self]
  · simp [Sparse.set, h, Sparse.get_insert_erase]

theorem Sparse.get_set_other (l : List (Nat × BitVec w)) {a b : Nat} (v : BitVec w) (h : b ≠ a) :
    Sparse.get (Sparse.set l a v) b = Sparse.get l b := by
  by_cases hv : v = 0#w
  · simp [Sparse.set, hv, Sparse.get_erase_other l h]
  · simp [Sparse.set, hv, Sparse.get_insert_other _ v h, Sparse.get_erase_other l h]

/-- Every read of a store after a write, in one line. -/
theorem Sparse.get_set (l : List (Nat × BitVec w)) (a b : Nat) (v : BitVec w) :
    Sparse.get (Sparse.set l a v) b = if b = a then v else Sparse.get l b := by
  by_cases h : b = a
  · subst h; simp
  · simp [h, Sparse.get_set_other l v h]

theorem Sparse.wfFrom_cons {size lo a : Nat} {v : BitVec w} {l : List (Nat × BitVec w)} :
    Sparse.wfFrom size lo ((a, v) :: l) = true ↔
      lo ≤ a ∧ a < size ∧ v ≠ 0#w ∧ Sparse.wfFrom size (a + 1) l = true := by
  simp [Sparse.wfFrom, and_assoc]

theorem Sparse.wfFrom_mono {size lo lo' : Nat} (h : lo' ≤ lo) {l : List (Nat × BitVec w)}
    (hl : Sparse.wfFrom size lo l = true) : Sparse.wfFrom size lo' l = true := by
  cases l with
  | nil => rfl
  | cons p l =>
    obtain ⟨a, v⟩ := p
    rw [Sparse.wfFrom_cons] at hl ⊢
    exact ⟨by omega, hl.2⟩

/-- An index below every entry reads 0. -/
theorem Sparse.get_below {size lo a : Nat} {l : List (Nat × BitVec w)} (hl : Sparse.wfFrom size lo l = true)
    (h : a < lo) : Sparse.get l a = 0#w := by
  induction l generalizing lo with
  | nil => rfl
  | cons p l ih =>
    obtain ⟨b, v⟩ := p
    rw [Sparse.wfFrom_cons] at hl
    rw [Sparse.get, if_neg (by omega)]
    exact ih hl.2.2.2 (by omega)

/-- An index at or above the store's size reads 0 in a canonical store. -/
theorem Sparse.get_beyond {size lo a : Nat} {l : List (Nat × BitVec w)} (hl : Sparse.wfFrom size lo l = true)
    (h : size ≤ a) : Sparse.get l a = 0#w := by
  induction l generalizing lo with
  | nil => rfl
  | cons p l ih =>
    obtain ⟨b, v⟩ := p
    rw [Sparse.wfFrom_cons] at hl
    rw [Sparse.get, if_neg (by omega)]
    exact ih hl.2.2.2

theorem Sparse.wfFrom_erase {size lo : Nat} {l : List (Nat × BitVec w)} (a : Nat)
    (hl : Sparse.wfFrom size lo l = true) : Sparse.wfFrom size lo (Sparse.erase l a) = true := by
  induction l generalizing lo with
  | nil => rfl
  | cons p l ih =>
    obtain ⟨b, v⟩ := p
    rw [Sparse.wfFrom_cons] at hl
    by_cases h : a = b
    · rw [Sparse.erase, if_pos h]
      exact Sparse.wfFrom_mono (by omega) (ih hl.2.2.2)
    · rw [Sparse.erase, if_neg h, Sparse.wfFrom_cons]
      exact ⟨hl.1, hl.2.1, hl.2.2.1, ih hl.2.2.2⟩

theorem Sparse.wfFrom_insert_erase {size lo : Nat} {l : List (Nat × BitVec w)} {a : Nat} {v : BitVec w}
    (hl : Sparse.wfFrom size lo l = true) (hlo : lo ≤ a) (ha : a < size) (hv : v ≠ 0#w) :
    Sparse.wfFrom size lo (Sparse.insert (Sparse.erase l a) a v) = true := by
  induction l generalizing lo with
  | nil => simp [Sparse.erase, Sparse.insert, Sparse.wfFrom, hlo, ha, hv]
  | cons p l ih =>
    obtain ⟨b, x⟩ := p
    rw [Sparse.wfFrom_cons] at hl
    by_cases h : a = b
    · subst h
      rw [Sparse.erase, if_pos rfl]
      exact ih (Sparse.wfFrom_mono (by omega) hl.2.2.2) hlo
    · rw [Sparse.erase, if_neg h]
      by_cases hlt : a < b
      · rw [Sparse.insert, if_pos hlt, Sparse.wfFrom_cons, Sparse.wfFrom_cons]
        exact ⟨hlo, ha, hv, by omega, hl.2.1, hl.2.2.1, Sparse.wfFrom_erase a hl.2.2.2⟩
      · rw [Sparse.insert, if_neg hlt, Sparse.wfFrom_cons]
        exact ⟨hl.1, hl.2.1, hl.2.2.1, ih hl.2.2.2 (by omega)⟩

/-- A write inside the store keeps the canonical form. -/
theorem Sparse.wfFrom_set {size lo : Nat} {l : List (Nat × BitVec w)} {a : Nat} (v : BitVec w)
    (hl : Sparse.wfFrom size lo l = true) (hlo : lo ≤ a) (ha : a < size) :
    Sparse.wfFrom size lo (Sparse.set l a v) = true := by
  by_cases hv : v = 0#w
  · rw [Sparse.set, if_pos hv]; exact Sparse.wfFrom_erase a hl
  · rw [Sparse.set, if_neg hv]; exact Sparse.wfFrom_insert_erase hl hlo ha hv

/-- A store built from a list that fits is canonical. -/
theorem Sparse.wfFrom_ofList {size lo k : Nat} {vs : List (BitVec w)} (hlo : lo ≤ k) (h : k + vs.length ≤ size) :
    Sparse.wfFrom size lo (Sparse.ofList k vs) = true := by
  induction vs generalizing lo k with
  | nil => rfl
  | cons v vs ih =>
    rw [List.length_cons] at h
    by_cases hv : v = 0#w
    · rw [Sparse.ofList, if_pos hv]; exact ih (by omega) (by omega)
    · rw [Sparse.ofList, if_neg hv, Sparse.wfFrom_cons]
      exact ⟨hlo, by omega, hv, ih (by omega) (by omega)⟩

theorem Sparse.get_ofList_below {k a : Nat} {vs : List (BitVec w)} (h : a < k) :
    Sparse.get (Sparse.ofList k vs) a = 0#w := by
  induction vs generalizing k with
  | nil => rfl
  | cons v vs ih =>
    by_cases hv : v = 0#w
    · rw [Sparse.ofList, if_pos hv]; exact ih (by omega)
    · rw [Sparse.ofList, if_neg hv, Sparse.get, if_neg (by omega)]; exact ih (by omega)

/-- What a store built from a list reads as: the list's values from `k` on, and 0 beyond them. -/
theorem Sparse.get_ofList (k n : Nat) (vs : List (BitVec w)) :
    Sparse.get (Sparse.ofList k vs) (k + n) = vs.getD n 0#w := by
  induction vs generalizing k n with
  | nil => simp [Sparse.ofList, Sparse.get]
  | cons v vs ih =>
    cases n with
    | zero =>
      by_cases hv : v = 0#w
      · simp [Sparse.ofList, hv, Sparse.get_ofList_below]
      · simp [Sparse.ofList, hv, Sparse.get]
    | succ n =>
      have := ih (k + 1) n
      rw [Nat.add_right_comm] at this
      by_cases hv : v = 0#w
      · rw [Sparse.ofList, if_pos hv]; simpa [Nat.add_assoc] using this
      · rw [Sparse.ofList, if_neg hv, Sparse.get, if_neg (by omega)]; simpa [Nat.add_assoc] using this

/-- Two canonical stores that read alike at every index are equal. -/
theorem Sparse.eq_of_get_eq {size lo : Nat} {l l' : List (Nat × BitVec w)} (hl : Sparse.wfFrom size lo l = true)
    (hl' : Sparse.wfFrom size lo l' = true) (h : ∀ a, Sparse.get l a = Sparse.get l' a) : l = l' := by
  induction l generalizing lo l' with
  | nil =>
    cases l' with
    | nil => rfl
    | cons p l' =>
      obtain ⟨b, v⟩ := p
      rw [Sparse.wfFrom_cons] at hl'
      have := h b
      simp [Sparse.get] at this
      exact absurd this.symm hl'.2.2.1
  | cons p l ih =>
    obtain ⟨a, v⟩ := p
    have hc := Sparse.wfFrom_cons.mp hl
    cases l' with
    | nil =>
      have := h a
      simp [Sparse.get] at this
      exact absurd this hc.2.2.1
    | cons q l' =>
      obtain ⟨b, x⟩ := q
      have hc' := Sparse.wfFrom_cons.mp hl'
      have hab : a = b := by
        rcases Nat.lt_trichotomy a b with hlt | heq | hgt
        · have := h a
          rw [Sparse.get, if_pos rfl, Sparse.get, if_neg (by omega), Sparse.get_below hc'.2.2.2 (by omega)] at this
          exact absurd this hc.2.2.1
        · exact heq
        · have := h b
          rw [Sparse.get, if_neg (by omega), Sparse.get_below hc.2.2.2 (by omega), Sparse.get, if_pos rfl] at this
          exact absurd this.symm hc'.2.2.1
      subst hab
      have hv : v = x := by simpa [Sparse.get] using h a
      subst hv
      have ht : l = l' := by
        refine ih hc.2.2.2 hc'.2.2.2 fun c => ?_
        by_cases hca : c = a
        · subst hca
          rw [Sparse.get_below hc.2.2.2 (by omega), Sparse.get_below hc'.2.2.2 (by omega)]
        · have := h c
          rwa [Sparse.get, if_neg hca, Sparse.get, if_neg hca] at this
      rw [ht]

/-! The data memory and the instruction store. -/

theorem State.writeMem_wf {s : State} {a : Nat} (v : Byte) (h : Memory.wf s.mem = true) (ha : a < 1024) :
    Memory.wf (s.writeMem a v).mem = true :=
  Sparse.wfFrom_set v h (Nat.zero_le a) ha

theorem State.writeSlot_wf {s : State} {k : Nat} (v : InstrWord) (h : InstrStore.wf s.istore = true) (hk : k < 1024) :
    InstrStore.wf (s.writeSlot k v).istore = true :=
  Sparse.wfFrom_set v h (Nat.zero_le k) hk

theorem State.placeWords_wf (s : State) (ws : List InstrWord) : InstrStore.wf (s.placeWords ws).istore = true :=
  Sparse.wfFrom_ofList (Nat.zero_le 0) (by simp [Config.storeSlots])

theorem State.readMem_writeMem (s : State) (a b : Nat) (v : Byte) :
    (s.writeMem a v).readMem b = if b = a then v else s.readMem b :=
  Sparse.get_set s.mem a b v

theorem State.readSlot_writeSlot (s : State) (k j : Nat) (v : InstrWord) :
    (s.writeSlot k v).readSlot j = if j = k then v else s.readSlot j :=
  Sparse.get_set s.istore k j v

theorem State.readSlot_placeWords (s : State) (ws : List InstrWord) (k : Nat) :
    (s.placeWords ws).readSlot k = (ws.take 1024).getD k 0 := by
  have := Sparse.get_ofList 0 k (ws.take Config.storeSlots)
  simpa [State.readSlot] using this

theorem State.readReg_writeReg (s : State) (i j : Fin 8) (v : Word) :
    (s.writeReg i v).readReg j = if j = i then v else s.readReg j := by
  simp only [State.readReg, State.writeReg, Fin.getElem_fin, Vector.getElem_set]
  by_cases h : j = i
  · simp [h]
  · have : ¬ (i : Nat) = j := fun e => h (Fin.ext e.symm)
    simp [h, this]

@[simp] theorem State.readReg_writeReg_self (s : State) (i : Fin 8) (v : Word) : (s.writeReg i v).readReg i = v := by
  simp [State.readReg_writeReg]

end Sys2Proof.Machine
end

