-- ==== Sys2Proof/Laws/Ops.lean ====
section
/-! SUPPORT. What each shared operation can do, said once: the end of an instruction, the operand forms, the fault and the run
start. Proofs about instructions cite these and never unfold the operations. -/

namespace Sys2Proof.Machine

/-! The end of an instruction (R126 to R128). -/

@[simp] theorem State.advance_regs (s : State) (n : NextPc) : (s.advance n).regs = s.regs := by
  cases n <;> rfl

@[simp] theorem State.haltCheck_regs (s : State) : s.haltCheck.regs = s.regs := by
  unfold State.haltCheck; split <;> rfl

@[simp] theorem State.retire_regs (s : State) (n : NextPc) (c : Status) : (s.retire n c).regs = s.regs := by
  simp [State.retire]

@[simp] theorem State.advance_zf (s : State) (n : NextPc) : (s.advance n).zf = s.zf := by
  cases n <;> rfl

@[simp] theorem State.haltCheck_zf (s : State) : s.haltCheck.zf = s.zf := by
  unfold State.haltCheck; split <;> rfl

@[simp] theorem State.retire_zf (s : State) (n : NextPc) (c : Status) : (s.retire n c).zf = s.zf := by
  simp [State.retire]

@[simp] theorem State.advance_running (s : State) (n : NextPc) : (s.advance n).running = s.running := by
  cases n <;> rfl

@[simp] theorem State.haltCheck_running (s : State) : s.haltCheck.running = s.running := by
  unfold State.haltCheck; split <;> rfl

@[simp] theorem State.retire_running (s : State) (n : NextPc) (c : Status) : (s.retire n c).running = s.running := by
  simp [State.retire]

@[simp] theorem State.advance_fault (s : State) (n : NextPc) : (s.advance n).fault = s.fault := by
  cases n <;> rfl

@[simp] theorem State.haltCheck_fault (s : State) : s.haltCheck.fault = s.fault := by
  unfold State.haltCheck; split <;> rfl

@[simp] theorem State.retire_fault (s : State) (n : NextPc) (c : Status) : (s.retire n c).fault = s.fault := by
  simp [State.retire]

@[simp] theorem State.advance_mem (s : State) (n : NextPc) : (s.advance n).mem = s.mem := by
  cases n <;> rfl

@[simp] theorem State.haltCheck_mem (s : State) : s.haltCheck.mem = s.mem := by
  unfold State.haltCheck; split <;> rfl

@[simp] theorem State.retire_mem (s : State) (n : NextPc) (c : Status) : (s.retire n c).mem = s.mem := by
  simp [State.retire]

@[simp] theorem State.advance_istore (s : State) (n : NextPc) : (s.advance n).istore = s.istore := by
  cases n <;> rfl

@[simp] theorem State.haltCheck_istore (s : State) : s.haltCheck.istore = s.istore := by
  unfold State.haltCheck; split <;> rfl

@[simp] theorem State.retire_istore (s : State) (n : NextPc) (c : Status) : (s.retire n c).istore = s.istore := by
  simp [State.retire]

@[simp] theorem State.advance_events (s : State) (n : NextPc) : (s.advance n).events = s.events := by
  cases n <;> rfl

@[simp] theorem State.haltCheck_events (s : State) : s.haltCheck.events = s.events := by
  unfold State.haltCheck; split <;> rfl

@[simp] theorem State.retire_events (s : State) (n : NextPc) (c : Status) : (s.retire n c).events = s.events := by
  simp [State.retire]

@[simp] theorem State.advance_params (s : State) (n : NextPc) : (s.advance n).params = s.params := by
  cases n <;> rfl

@[simp] theorem State.haltCheck_params (s : State) : s.haltCheck.params = s.params := by
  unfold State.haltCheck; split <;> rfl

@[simp] theorem State.retire_params (s : State) (n : NextPc) (c : Status) : (s.retire n c).params = s.params := by
  simp [State.retire]

@[simp] theorem State.advance_draws (s : State) (n : NextPc) : (s.advance n).draws = s.draws := by
  cases n <;> rfl

@[simp] theorem State.haltCheck_draws (s : State) : s.haltCheck.draws = s.draws := by
  unfold State.haltCheck; split <;> rfl

@[simp] theorem State.retire_draws (s : State) (n : NextPc) (c : Status) : (s.retire n c).draws = s.draws := by
  simp [State.retire]

@[simp] theorem State.advance_engine (s : State) (n : NextPc) : (s.advance n).engine = s.engine := by
  cases n <;> rfl

@[simp] theorem State.haltCheck_pc (s : State) : s.haltCheck.pc = s.pc := by
  unfold State.haltCheck; split <;> rfl

@[simp] theorem State.retire_status (s : State) (n : NextPc) (c : Status) : (s.retire n c).status = some c := rfl

@[simp] theorem State.retire_pc (s : State) (n : NextPc) (c : Status) : (s.retire n c).pc = (s.advance n).pc := by
  simp [State.retire]

@[simp] theorem State.advance_seq_pc (s : State) : (s.advance .seq).pc = s.pc + 1 := rfl

@[simp] theorem State.advance_stop_pc (s : State) : (s.advance .stop).pc = s.pc := rfl

@[simp] theorem State.advance_jump_pc (s : State) (t : Word) : (s.advance (.jump t)).pc = t := rfl

@[simp] theorem State.readReg_retire (s : State) (n : NextPc) (c : Status) (i : Fin 8) :
    (s.retire n c).readReg i = s.readReg i := by simp [State.readReg]

@[simp] theorem State.readMem_retire (s : State) (n : NextPc) (c : Status) (a : Nat) :
    (s.retire n c).readMem a = s.readMem a := by simp [State.readMem]

@[simp] theorem State.readSlot_retire (s : State) (n : NextPc) (c : Status) (k : Nat) :
    (s.retire n c).readSlot k = s.readSlot k := by simp [State.readSlot]

/-- Halt detection, once and for all (R127). -/
theorem State.retire_engine (s : State) (n : NextPc) (c : Status) :
    (s.retire n c).engine = if s.running = true ∧ (s.advance n).pc.toNat < 1024 then s.engine else .halted := by
  simp only [State.retire, State.report_engine, State.haltCheck, State.advance_running]
  split <;> simp

/-- What ends an instruction adds nothing to its effect. -/
theorem ChangesOnly.retire {e : Effect} {s u : State} (h : ChangesOnly e s u) (n : NextPc) (c : Status) :
    ChangesOnly e s (u.retire n c) where
  regs i hi := by simpa using h.regs i hi
  mem a ha := by simpa using h.mem a ha
  slots k := by simpa using h.slots k
  zf hz := by simpa using h.zf hz
  running hr := by simpa using h.running hr
  fault := by simpa using h.fault
  events := by simpa using h.events
  params := by simpa using h.params
  draws hd := by simpa using h.draws hd

theorem ChangesOnly.none (s : State) : ChangesOnly {} s s where
  regs _ _ := rfl
  mem _ _ := rfl
  slots _ := rfl
  zf _ := rfl
  running _ := rfl
  fault := rfl
  events := by simp
  params := rfl
  draws _ := rfl

theorem ChangesOnly.writeReg (s : State) (d : Fin 8) (v : Word) :
    ChangesOnly { reg := some d } s (s.writeReg d v) where
  regs i hi := by
    have : i ≠ d := fun h => hi (congrArg some h.symm)
    simp [State.readReg_writeReg, this]
  mem _ _ := rfl
  slots _ := rfl
  zf _ := rfl
  running _ := rfl
  fault := rfl
  events := by simp
  params := rfl
  draws _ := rfl

theorem ChangesOnly.writeMem (s : State) (a : Nat) (v : Byte) :
    ChangesOnly { cell := some a } s (s.writeMem a v) where
  regs _ _ := rfl
  mem b hb := by
    have : b ≠ a := fun h => hb (congrArg some h.symm)
    simp [State.readMem_writeMem, this]
  slots _ := rfl
  zf _ := rfl
  running _ := rfl
  fault := rfl
  events := by simp
  params := rfl
  draws _ := rfl

theorem ChangesOnly.setZf (s : State) (b : Bool) : ChangesOnly { zf := true } s (s.setZf b) where
  regs _ _ := rfl
  mem _ _ := rfl
  slots _ := rfl
  zf h := by cases h
  running _ := rfl
  fault := rfl
  events := by simp
  params := rfl
  draws _ := rfl

theorem ChangesOnly.setRunning (s : State) (b : Bool) : ChangesOnly { running := true } s (s.setRunning b) where
  regs _ _ := rfl
  mem _ _ := rfl
  slots _ := rfl
  zf _ := rfl
  running h := by cases h
  fault := rfl
  events := by simp
  params := rfl
  draws _ := rfl

theorem ChangesOnly.emit (s : State) (e : Event) : ChangesOnly { event := some e } s (s.emit e) where
  regs _ _ := rfl
  mem _ _ := rfl
  slots _ := rfl
  zf _ := rfl
  running _ := rfl
  fault := rfl
  events := by simp
  params := rfl
  draws _ := rfl

/-- How an instruction with next = Seq ends, for an effect that leaves the pc and the engine state. -/
theorem endsSeq_retire {s u : State} (hp : u.pc = s.pc) (he : u.engine = s.engine) (c : Status) :
    EndsSeq c s (u.retire .seq c) :=
  ⟨by simp [hp], by rw [HaltDetected, State.retire_engine, he]; simp, by simp⟩

/-- How a taken jump ends. -/
theorem endsJump_retire (s : State) (t : Word) : EndsJump t s (s.retire (.jump t) .ok) :=
  ⟨by simp, by rw [HaltDetected, State.retire_engine]; simp; rfl, by simp⟩

/-- What `skip(code)` does (R125). -/
theorem skips_skip (s : State) (c : Status) : Skips c s (.next (s.skip c)) :=
  ⟨s.skip c, rfl, (ChangesOnly.none s).retire .seq c, endsSeq_retire rfl rfl c⟩

/-! The state with another output trace, and the flag through the end of an instruction. -/

@[simp] theorem State.withEvents_regs (s : State) (es : List Event) : (s.withEvents es).regs = s.regs := rfl
@[simp] theorem State.withEvents_pc (s : State) (es : List Event) : (s.withEvents es).pc = s.pc := rfl
@[simp] theorem State.withEvents_zf (s : State) (es : List Event) : (s.withEvents es).zf = s.zf := rfl
@[simp] theorem State.withEvents_running (s : State) (es : List Event) : (s.withEvents es).running = s.running := rfl
@[simp] theorem State.withEvents_engine (s : State) (es : List Event) : (s.withEvents es).engine = s.engine := rfl
@[simp] theorem State.withEvents_fault (s : State) (es : List Event) : (s.withEvents es).fault = s.fault := rfl
@[simp] theorem State.withEvents_mem (s : State) (es : List Event) : (s.withEvents es).mem = s.mem := rfl
@[simp] theorem State.withEvents_istore (s : State) (es : List Event) : (s.withEvents es).istore = s.istore := rfl
@[simp] theorem State.withEvents_status (s : State) (es : List Event) : (s.withEvents es).status = s.status := rfl
@[simp] theorem State.withEvents_params (s : State) (es : List Event) : (s.withEvents es).params = s.params := rfl
@[simp] theorem State.withEvents_draws (s : State) (es : List Event) : (s.withEvents es).draws = s.draws := rfl
@[simp] theorem State.withEvents_events (s : State) (es : List Event) : (s.withEvents es).events = es := rfl
@[simp] theorem State.readReg_withEvents (s : State) (es : List Event) (i : Fin 8) :
    (s.withEvents es).readReg i = s.readReg i := rfl
@[simp] theorem State.readMem_withEvents (s : State) (es : List Event) (a : Nat) :
    (s.withEvents es).readMem a = s.readMem a := rfl
@[simp] theorem State.fetch?_withEvents (s : State) (es : List Event) : (s.withEvents es).fetch? = s.fetch? := rfl

theorem State.advance_pc_congr {s u : State} (h : u.pc = s.pc) (n : NextPc) : (u.advance n).pc = (s.advance n).pc := by
  cases n <;> simp [h]

/-- Ending an instruction does not look at the output trace. -/
theorem State.retire_withEvents (s : State) (es : List Event) (n : NextPc) (c : Status) :
    (s.withEvents es).retire n c = (s.retire n c).withEvents es := by
  have hp := State.advance_pc_congr (s := s) (u := s.withEvents es) rfl n
  apply State.ext <;> simp [State.retire_engine, hp]

/-- Ending an instruction does not look at the zero flag. -/
theorem State.retire_setZf (s : State) (b : Bool) (n : NextPc) (c : Status) :
    (s.setZf b).retire n c = (s.retire n c).setZf b := by
  have hp := State.advance_pc_congr (s := s) (u := s.setZf b) rfl n
  apply State.ext <;> simp [State.retire_engine, hp]

/-! The operand forms. -/

theorem regIndex?_of_lt {n : Nat} (h : n < 8) : regIndex? n = some ⟨n, h⟩ := by
  simp [regIndex?, Config.numRegs, h]

@[simp] theorem regIndex?_fin (d : Fin 8) : regIndex? (d : Nat) = some d := by
  simp [regIndex?, Config.numRegs]

theorem regIndex?_of_ge {n : Nat} (h : 8 ≤ n) : regIndex? n = none := by
  simp [regIndex?, Config.numRegs, Nat.not_lt.mpr h]

theorem regIndex?_eq_some {n : Nat} {d : Fin 8} (h : regIndex? n = some d) : n = d := by
  unfold regIndex? at h
  split at h
  · cases h; rfl
  · cases h

theorem memAddress?_of_lt {imm : Word} (h : imm.toNat < 1024) : memAddress? imm = some ⟨imm.toNat, h⟩ := by
  simp [memAddress?, Config.memSize, h]

theorem memAddress?_of_ge {imm : Word} (h : 1024 ≤ imm.toNat) : memAddress? imm = none := by
  simp [memAddress?, Config.memSize, Nat.not_lt.mpr h]

theorem memAddress?_eq_some {imm : Word} {a : Fin 1024} (h : memAddress? imm = some a) : imm.toNat = a := by
  unfold memAddress? at h
  split at h
  · cases h; rfl
  · cases h

theorem jumpTarget?_of_lt {imm : Word} (h : imm.toNat < 1024) : jumpTarget? imm = some imm := by
  simp [jumpTarget?, Config.storeSlots, h]

theorem jumpTarget?_of_ge {imm : Word} (h : 1024 ≤ imm.toNat) : jumpTarget? imm = none := by
  simp [jumpTarget?, Config.storeSlots, Nat.not_lt.mpr h]

theorem jumpTarget?_eq_some {imm t : Word} (h : jumpTarget? imm = some t) : t = imm ∧ imm.toNat < 1024 := by
  unfold jumpTarget? at h
  split at h
  next hlt => cases h; exact ⟨rfl, hlt⟩
  next => cases h

theorem shiftResult_of_lt {f : Word → Nat → Word} {v n : Word} {s : State} (h : n.toNat < 32) :
    shiftResult f v n s = f v n.toNat := by simp [shiftResult, Config.wordBits, h]

theorem afterShift_of_lt {n : Word} {s : State} (h : n.toNat < 32) : afterShift n s = s := by
  simp [afterShift, Config.wordBits, h]

/-- A shift changes nothing but the count of free values, and that only under SHIFT_GE32 = `draw`. -/
theorem afterShift_cases (n : Word) (s : State) :
    afterShift n s = s ∨ (32 ≤ n.toNat ∧ s.params.shiftGe32 = .draw ∧ afterShift n s = s.countDraw) := by
  unfold afterShift
  split
  · exact .inl rfl
  next h =>
    split
    · exact .inl rfl
    · exact .inl rfl
    next hd => exact .inr ⟨by simpa [Config.wordBits] using h, hd, rfl⟩

/-! The fetch, the fault, the run start. -/

theorem State.fetch?_of_lt {s : State} (h : s.pc.toNat < 1024) : s.fetch? = some (s.readSlot s.pc.toNat) := by
  simp [State.fetch?, Config.storeSlots, h]

theorem State.fetch?_of_ge {s : State} (h : 1024 ≤ s.pc.toNat) : s.fetch? = none := by
  simp [State.fetch?, Config.storeSlots, Nat.not_lt.mpr h]

/-- What the IllegalOpcode fault changes (R123). -/
theorem State.raiseIllegalOpcode_eq (s : State) :
    s.raiseIllegalOpcode = { s with fault := true, engine := .halted, status := some .illegalOpcode } := rfl

/-- What a run start changes (R243). -/
theorem State.runStart_eq (s : State) :
    s.runStart = { s with pc := 0, running := true, fault := false, engine := .running } := rfl

end Sys2Proof.Machine
end

