-- ==== Sys2Proof/Laws/PerInstr.lean ====
section
/-! SUPPORT. The per-instruction family OpcodeField: the opcode field of an instruction's encoded word is the value the opcode
map gives the instruction (30_encoding.md R81, R86). -/

namespace Sys2Proof.Laws

/-- The opcode field of the encoded word selects this instruction's operation. -/
def OpcodeField.Statement (i : Instr) : Prop := Opcode.ofByte (wordOpcode (encode i)) = some i.opcode

theorem opcodeField_encode (i : Instr) : Opcode.ofByte (wordOpcode (encode i)) = some i.opcode := by
  simp [encode]

theorem OpcodeField.nop : OpcodeField.Statement (.nop) := opcodeField_encode _

theorem OpcodeField.mov (rd : Byte) (imm : Word) : OpcodeField.Statement (.mov rd imm) := opcodeField_encode _

theorem OpcodeField.add (rd : Byte) (rs : Byte) : OpcodeField.Statement (.add rd rs) := opcodeField_encode _

theorem OpcodeField.sub (rd : Byte) (rs : Byte) : OpcodeField.Statement (.sub rd rs) := opcodeField_encode _

theorem OpcodeField.load (rd : Byte) (addr : Word) : OpcodeField.Statement (.load rd addr) := opcodeField_encode _

theorem OpcodeField.store (rs : Byte) (addr : Word) : OpcodeField.Statement (.store rs addr) := opcodeField_encode _

theorem OpcodeField.jmp (target : Word) : OpcodeField.Statement (.jmp target) := opcodeField_encode _

theorem OpcodeField.cmp (ra : Byte) (rb : Byte) : OpcodeField.Statement (.cmp ra rb) := opcodeField_encode _

theorem OpcodeField.je (target : Word) : OpcodeField.Statement (.je target) := opcodeField_encode _

theorem OpcodeField.halt : OpcodeField.Statement (.halt) := opcodeField_encode _

theorem OpcodeField.and (rd : Byte) (rs : Byte) : OpcodeField.Statement (.and rd rs) := opcodeField_encode _

theorem OpcodeField.orr (rd : Byte) (rs : Byte) : OpcodeField.Statement (.orr rd rs) := opcodeField_encode _

theorem OpcodeField.eor (rd : Byte) (rs : Byte) : OpcodeField.Statement (.eor rd rs) := opcodeField_encode _

theorem OpcodeField.lsl (rd : Byte) (amount : Word) : OpcodeField.Statement (.lsl rd amount) := opcodeField_encode _

theorem OpcodeField.lsr (rd : Byte) (amount : Word) : OpcodeField.Statement (.lsr rd amount) := opcodeField_encode _

theorem OpcodeField.mul (rd : Byte) (rs : Byte) : OpcodeField.Statement (.mul rd rs) := opcodeField_encode _

theorem OpcodeField.udiv (rd : Byte) (rs : Byte) : OpcodeField.Statement (.udiv rd rs) := opcodeField_encode _

theorem OpcodeField.neg (rd : Byte) : OpcodeField.Statement (.neg rd) := opcodeField_encode _

theorem OpcodeField.movz (rd : Byte) (imm : Word) : OpcodeField.Statement (.movz rd imm) := opcodeField_encode _

theorem OpcodeField.movn (rd : Byte) (imm : Word) : OpcodeField.Statement (.movn rd imm) := opcodeField_encode _

theorem OpcodeField.print (mode : Byte) (index : Word) : OpcodeField.Statement (.print mode index) := opcodeField_encode _

theorem OpcodeField.tdrawClear : OpcodeField.Statement (.tdrawClear) := opcodeField_encode _

theorem OpcodeField.tdrawPixel (xsel : Byte) (ysel : Byte) (ch : Byte) : OpcodeField.Statement (.tdrawPixel xsel ysel ch) := opcodeField_encode _

end Sys2Proof.Laws
end

