-- ==== Sys2Proof/Laws/Step.lean ====
section
/-! SUPPORT. What an instruction and a step can do, said once: every instruction is skipped, or has one of the seven kinds of
effect below and then ends. Whole-machine facts are case splits on this, not unfoldings of the meanings. -/

namespace Sys2Proof.Machine

/-- The effects an instruction can have on `s`: the state `u` before the instruction ends, and its next-pc choice. -/
inductive EffectOf (s : State) : Instr → State → NextPc → Prop where
  /-- An instruction that writes a register (a shift may first have counted a free value). -/
  | reg {i : Instr} {s' : State} (d : Fin 8) (v : Word) (hi : destIndex i = some (d : Nat))
      (hs : s' = s ∨ s' = s.countDraw) : EffectOf s i (s'.writeReg d v) .seq
  /-- STORE. -/
  | store (rs : Byte) (addr : Word) (a : Fin 1024) (v : Byte) (ha : memAddress? addr = some a) :
      EffectOf s (.store rs addr) (s.writeMem a v) .seq
  /-- CMP. -/
  | cmp (ra rb : Byte) (b : Bool) : EffectOf s (.cmp ra rb) (s.setZf b) .seq
  /-- A taken JMP or JE. -/
  | jump {i : Instr} (target : Word) (hi : i = .jmp target ∨ (i = .je target ∧ s.zf = true))
      (ht : target.toNat < 1024) : EffectOf s i s (.jump target)
  /-- NOP, or a JE not taken. -/
  | none {i : Instr} (hi : i = .nop ∨ ∃ target, i = .je target) : EffectOf s i s .seq
  /-- An output instruction. -/
  | event {i : Instr} (e : Event) (hi : sendsEvent i = true) : EffectOf s i (s.emit e) .seq
  /-- HALT. -/
  | halt : EffectOf s .halt (s.setRunning false) .stop

/-- What an instruction can do: be skipped with a status other than OK, or have its effect and end with OK. -/
def Does (i : Instr) (s : State) : Prop :=
  (∃ c, c ≠ .ok ∧ exec i s = .next (s.skip c)) ∨ (∃ u n, EffectOf s i u n ∧ exec i s = .next (u.retire n .ok))

theorem does_move {i : Instr} {s : State} {rd : Byte} {v : Word} (he : exec i s = moveTo rd v s)
    (hi : destIndex i = some rd.toNat) : Does i s := by
  unfold Does
  rw [he, moveTo]
  cases h : regIndex? rd.toNat with
  | none => exact .inl ⟨.regRange, by decide, rfl⟩
  | some d => exact .inr ⟨_, _, .reg d v (by rw [hi, regIndex?_eq_some h]) (.inl rfl), rfl⟩

theorem does_binary {i : Instr} {s : State} {f : Word → Word → Word} {rd rs : Byte}
    (he : exec i s = execBinary f rd rs s) (hi : destIndex i = some rd.toNat) : Does i s := by
  unfold Does
  rw [he, execBinary]
  cases h : regIndex? rd.toNat with
  | none => exact .inl ⟨.regRange, by decide, rfl⟩
  | some d =>
    cases regIndex? rs.toNat with
    | none => exact .inl ⟨.regRange, by decide, rfl⟩
    | some b => exact .inr ⟨_, _, .reg d _ (by rw [hi, regIndex?_eq_some h]) (.inl rfl), rfl⟩

theorem does_shift {i : Instr} {s : State} {f : Word → Nat → Word} {rd : Byte} {n : Word}
    (he : exec i s = execShift f rd n s) (hi : destIndex i = some rd.toNat) : Does i s := by
  unfold Does
  rw [he, execShift]
  cases h : regIndex? rd.toNat with
  | none => exact .inl ⟨.regRange, by decide, rfl⟩
  | some d =>
    exact .inr ⟨_, _, .reg d _ (by rw [hi, regIndex?_eq_some h]) ((afterShift_cases n s).imp id (·.2.2)), rfl⟩

/-- Every instruction, from every state. -/
theorem exec_does (i : Instr) (s : State) : Does i s := by
  cases i with
  | mov rd imm => exact does_move (v := imm) rfl rfl
  | movz rd imm => exact does_move (v := literal16 imm) rfl rfl
  | movn rd imm => exact does_move (v := ~~~imm) rfl rfl
  | add rd rs => exact does_binary rfl rfl
  | sub rd rs => exact does_binary rfl rfl
  | and rd rs => exact does_binary rfl rfl
  | orr rd rs => exact does_binary rfl rfl
  | eor rd rs => exact does_binary rfl rfl
  | mul rd rs => exact does_binary rfl rfl
  | lsl rd n => exact does_shift rfl rfl
  | lsr rd n => exact does_shift rfl rfl
  | nop => exact .inr ⟨s, .seq, .none (.inl rfl), rfl⟩
  | halt => exact .inr ⟨_, _, .halt, rfl⟩
  | tdrawClear => exact .inr ⟨_, _, .event .clear rfl, rfl⟩
  | udiv rd rs =>
    unfold Does
    simp only [exec, execUdiv]
    cases h : regIndex? rd.toNat with
    | none => exact .inl ⟨.regRange, by decide, rfl⟩
    | some d =>
      cases regIndex? rs.toNat with
      | none => exact .inl ⟨.regRange, by decide, rfl⟩
      | some b =>
        by_cases hz : s.readReg b = 0
        · exact .inl ⟨.divZero, by decide, by simp only [if_pos hz]⟩
        · exact .inr ⟨_, _, .reg d (s.readReg d / s.readReg b) (by rw [destIndex, regIndex?_eq_some h]) (.inl rfl),
            by simp only [if_neg hz]⟩
  | neg rd =>
    unfold Does
    simp only [exec, execNeg]
    cases h : regIndex? rd.toNat with
    | none => exact .inl ⟨.regRange, by decide, rfl⟩
    | some d => exact .inr ⟨_, _, .reg d _ (by rw [destIndex, regIndex?_eq_some h]) (.inl rfl), rfl⟩
  | load rd addr =>
    unfold Does
    simp only [exec, execLoad]
    cases h : regIndex? rd.toNat with
    | none => exact .inl ⟨.regRange, by decide, rfl⟩
    | some d =>
      cases memAddress? addr with
      | none => exact .inl ⟨.memRange, by decide, rfl⟩
      | some a => exact .inr ⟨_, _, .reg d _ (by rw [destIndex, regIndex?_eq_some h]) (.inl rfl), rfl⟩
  | store rs addr =>
    unfold Does
    simp only [exec, execStore]
    cases h : regIndex? rs.toNat with
    | none => exact .inl ⟨.regRange, by decide, rfl⟩
    | some d =>
      cases ha : memAddress? addr with
      | none => exact .inl ⟨.memRange, by decide, rfl⟩
      | some a => exact .inr ⟨_, _, .store rs addr a _ ha, rfl⟩
  | cmp ra rb =>
    unfold Does
    simp only [exec, execCmp]
    cases regIndex? ra.toNat with
    | none => exact .inl ⟨.regRange, by decide, rfl⟩
    | some a =>
      cases regIndex? rb.toNat with
      | none => exact .inl ⟨.regRange, by decide, rfl⟩
      | some b => exact .inr ⟨_, _, .cmp ra rb _, rfl⟩
  | jmp target =>
    unfold Does
    simp only [exec, execJmp]
    cases h : jumpTarget? target with
    | none => exact .inl ⟨.targetRange, by decide, rfl⟩
    | some t =>
      obtain ⟨rfl, hlt⟩ := jumpTarget?_eq_some h
      exact .inr ⟨_, _, .jump t (.inl rfl) hlt, rfl⟩
  | je target =>
    unfold Does
    simp only [exec, execJe]
    cases h : jumpTarget? target with
    | none => exact .inl ⟨.targetRange, by decide, rfl⟩
    | some t =>
      obtain ⟨rfl, hlt⟩ := jumpTarget?_eq_some h
      cases hz : s.zf with
      | true => exact .inr ⟨_, _, .jump t (.inr ⟨rfl, hz⟩) hlt, by simp⟩
      | false => exact .inr ⟨_, _, .none (.inr ⟨t, rfl⟩), by simp⟩
  | print mode index =>
    unfold Does
    simp only [exec, execPrint]
    by_cases h0 : mode = 0
    · simp only [if_pos h0]
      cases regIndex? index.toNat with
      | none => exact .inl ⟨.regRange, by decide, rfl⟩
      | some r => exact .inr ⟨_, _, .event _ rfl, rfl⟩
    · simp only [if_neg h0]
      by_cases h1 : mode = 1
      · simp only [if_pos h1]
        cases memAddress? index with
        | none => exact .inl ⟨.memRange, by decide, rfl⟩
        | some a => exact .inr ⟨_, _, .event _ rfl, rfl⟩
      · exact .inl ⟨.modeInvalid, by decide, by simp only [if_neg h1]⟩
  | tdrawPixel xsel ysel ch =>
    unfold Does
    simp only [exec, execTdrawPixel]
    cases pixelReg? s.params.pixelSel xsel with
    | none => exact .inl ⟨.regRange, by decide, rfl⟩
    | some x =>
      cases pixelReg? s.params.pixelSel ysel with
      | none => exact .inl ⟨.regRange, by decide, rfl⟩
      | some y => exact .inr ⟨_, _, .event _ rfl, rfl⟩

/-- What a step can do: nothing while Halted; halt at the end of the store; execute the decoded instruction; fault. -/
theorem step_cases (s : State) :
    (s.engine = .halted ∧ step s = .next s) ∨
    (s.engine = .running ∧ 1024 ≤ s.pc.toNat ∧ step s = .next s.haltAtEnd) ∨
    (∃ i, Executes s i ∧ s.pc.toNat < 1024 ∧ step s = exec i s) ∨
    (s.engine = .running ∧ s.pc.toNat < 1024 ∧ (∃ w, s.fetch? = some w ∧ 23 ≤ (wordOpcode w).toNat) ∧
      step s = .next s.raiseIllegalOpcode) := by
  cases he : s.engine with
  | halted => exact .inl ⟨rfl, by simp only [step, he]⟩
  | running =>
    refine .inr ?_
    by_cases hp : s.pc.toNat < 1024
    · have hf := State.fetch?_of_lt hp
      rcases decode_cases (s.readSlot s.pc.toNat) with ⟨o, -, hd⟩ | ⟨hge, hd⟩
      · exact .inr (.inl ⟨_, ⟨he, _, hf, hd⟩, hp, by simp only [step, he, hf, hd]⟩)
      · exact .inr (.inr ⟨rfl, hp, ⟨_, hf, hge⟩, by simp only [step, he, hf, hd]⟩)
    · exact .inl ⟨rfl, by omega, by simp only [step, he, State.fetch?_of_ge (Nat.le_of_not_lt hp)]⟩

end Sys2Proof.Machine
end

