-- ==== Sys2Proof/Machine/Sink.lean ====
section
/-! DEFINITION. What the terminal output sink does with an event (45_system.md R196). The sink is outside the block
(00_scope.md R5): no definition of the core calls this file, which only keeps the spec's reading for reference (log 17). -/

namespace Sys2Proof.Machine

/-- What the sink does to the terminal (R196). -/
inductive SinkAction where
  /-- One line of text. -/
  | line (text : List Byte)
  /-- Clear the screen and home. -/
  | clearAndHome
  /-- Place a character at a row and a column. -/
  | placeCharacter (row column : Nat) (ch : Byte)
deriving DecidableEq, Repr

/-- The last `k` decimal digits of a number without leading zeros, at least one, before the text `after`. -/
def decimalDigits : Nat → Nat → List Byte → List Byte
  | 0, _, after => after
  | k + 1, n, after =>
    let text := BitVec.ofNat 8 (0x30 + n % 10) :: after
    if n < 10 then text else decimalDigits k (n / 10) text

/-- A value below 2^32 in unsigned decimal (R196): ten digits are enough. -/
def decimalText (n : Nat) : List Byte := decimalDigits 10 n []

/-- How the sink shows an event (R196): row `yv`, column `xv`, whatever their range. -/
def renderEvent : Event → SinkAction
  | .printReg i v => .line (ascii ['R'] ++ decimalText i ++ ascii [' ', '=', ' '] ++ decimalText v.toNat)
  | .printMem a v =>
    .line (ascii ['M', 'E', 'M', '['] ++ decimalText a ++ ascii [']', ' ', '=', ' '] ++ decimalText v.toNat)
  | .clear => .clearAndHome
  | .pixel xv yv ch => .placeCharacter yv.toNat xv.toNat ch

/-- What the sink does with the events of a run, in order. -/
def renderTrace (es : List Event) : List SinkAction := es.map renderEvent

end Sys2Proof.Machine
end

