-- ==== Sys2Proof/Tests/Slice0.lean ====
section
/-! SUPPORT. The model's own tests: an ill-formed term for each check of WellFormed, a word written out from the encoding
of 30_encoding.md for every constructor, one step on the vectors of 95_test_vectors.md, and the assembler's vectors. -/

namespace Sys2Proof.Tests
open Sys2Proof.Machine

/-! WellFormed: each check refuses an ill-formed term, and the term at the boundary passes. -/

theorem test_wf_refuses_r1 : Instr.wellFormed (.mov 8 0) = false ∧ Instr.wellFormed (.mov 7 0) = true := by decide
theorem test_wf_refuses_r2 : Instr.wellFormed (.add 0 8) = false ∧ Instr.wellFormed (.add 7 7) = true := by decide
theorem test_wf_refuses_address :
    Instr.wellFormed (.store 0 1024) = false ∧ Instr.wellFormed (.load 0 1023) = true := by decide
theorem test_wf_refuses_target : Instr.wellFormed (.je 1024) = false ∧ Instr.wellFormed (.jmp 1023) = true := by decide
theorem test_wf_refuses_mode : Instr.wellFormed (.print 2 0) = false ∧ Instr.wellFormed (.print 1 0) = true := by decide
theorem test_wf_refuses_print_index :
    Instr.wellFormed (.print 0 8) = false ∧ Instr.wellFormed (.print 1 1024) = false ∧
      Instr.wellFormed (.print 1 1023) = true := by decide
theorem test_wf_refuses_selector :
    Instr.wellFormed (.tdrawPixel 8 0 0) = false ∧ Instr.wellFormed (.tdrawPixel 0 8 0) = false ∧
      Instr.wellFormed (.tdrawPixel 7 7 255) = true := by decide

/-! Decoding: words written out by hand as `imm << 32 | r2 << 16 | r1 << 8 | opcode` (R81, R86); most of them stand in
95_test_vectors.md. -/

theorem test_decode_moves :
    decodeTableWord 64 0x0000002A00000001 = some (.mov 0 42) ∧
    decodeTableWord 64 0x0001117000000212 = some (.movz 2 70000) ∧
    decodeTableWord 64 0x0000000500000313 = some (.movn 3 5) := by decide
theorem test_decode_arithmetic :
    decodeTableWord 64 0x0000000000020102 = some (.add 1 2) ∧
    decodeTableWord 64 0x0000000000020103 = some (.sub 1 2) ∧
    decodeTableWord 64 0x000000000002010F = some (.mul 1 2) ∧
    decodeTableWord 64 0x0000000000030910 = some (.udiv 9 3) ∧
    decodeTableWord 64 0x0000000000000711 = some (.neg 7) := by decide
theorem test_decode_logic :
    decodeTableWord 64 0x000000000002010A = some (.and 1 2) ∧
    decodeTableWord 64 0x000000000002010B = some (.orr 1 2) ∧
    decodeTableWord 64 0x000000000002010C = some (.eor 1 2) ∧
    decodeTableWord 64 0x0000001F0000010D = some (.lsl 1 31) ∧
    decodeTableWord 64 0x000000040000010E = some (.lsr 1 4) := by decide
theorem test_decode_memory :
    decodeTableWord 64 0x0000006400000204 = some (.load 2 100) ∧
    decodeTableWord 64 0x000003FF00000205 = some (.store 2 1023) := by decide
theorem test_decode_control :
    decodeTableWord 64 0x0000000700000006 = some (.jmp 7) ∧
    decodeTableWord 64 0x0000000000040307 = some (.cmp 3 4) ∧
    decodeTableWord 64 0x0000000500000008 = some (.je 5) := by decide
theorem test_decode_system :
    decodeTableWord 64 0 = some .nop ∧ decodeTableWord 64 9 = some .halt ∧
    decodeTableWord 64 0x000003FF00000114 = some (.print 1 1023) ∧
    decodeTableWord 64 0x15 = some .tdrawClear ∧
    decodeTableWord 64 0x0023050600000016 = some (.tdrawPixel 6 5 0x23) := by decide
/-- A row of the table that gives only the opcode byte: every bit above it is 0. -/
theorem test_decode_short_row : decodeTableWord 8 4 = some (.load 0 0) := by decide
/-- R82, V-X3: the reserved byte is ignored; R88, V-X1, V-X2: 23 and 255 are illegal. -/
theorem test_decode_ignores_reserved : decodeTableWord 64 0x0000002AFF000001 = some (.mov 0 42) := by decide
theorem test_decode_refuses :
    decode 0x17 = .error (.illegalOpcode 23) ∧ decode 0xFF = .error (.illegalOpcode 255) ∧
      decodeTableWord 64 0x17 = none := by decide

/-! One step on a small state. `regs8`, `run1` and the projections are helpers of the tests. -/

/-- A Running state with the given registers R0 to R7, pc and zero flag, everything else as after power-on. -/
def st (r : Vector Word 8) (pc : Word) (zf : Bool) : State :=
  { State.reset with regs := r, pc := pc, zf := zf, engine := .running }

/-- All registers 0. -/
def zeros : Vector Word 8 := Vector.replicate 8 0

/-- The state after one step that fetches the word `w`. -/
def run1 (s : State) (w : Nat) : Option State :=
  match step (s.withFetchWord 64 w) with
  | .next t => some t
  | .fault _ => none
  | .refused _ => none

/-- A register, and the status code, after that step. -/
def regOf (i : Fin 8) (o : Option State) : Option (Word × Nat) :=
  o.bind fun t => t.status.map fun c => (t.readReg i, c.code)

/-- The pc, `zf`, `running`, `engine` and status code after that step. -/
def ctl (o : Option State) : Option (Nat × Bool × Bool × Engine × Nat) :=
  o.bind fun t => t.status.map fun c => (t.pc.toNat, t.zf, t.running, t.engine, c.code)

/-- The events so far and the status code after that step. -/
def evs (o : Option State) : Option (List Event × Nat) :=
  o.bind fun t => t.status.map fun c => (t.events, c.code)

/-- V-M1, V-M4. -/
theorem test_mov : regOf 1 (run1 (st zeros 0 false) 0xFFFFFFFF00000101) = some (0xFFFFFFFF, 0) ∧
    (run1 (st zeros 0 false) 0x000000050000D001).map State.regs = some zeros := by decide
/-- V-M3. -/
theorem test_movz : regOf 2 (run1 (st #v[0, 0, 7, 0, 0, 0, 0, 0] 0 false) 0xFFFFFFFF00000212) = some (0xFFFF, 0) := by
  decide
/-- V-M5. -/
theorem test_movn : regOf 3 (run1 (st zeros 0 false) 0x0000000500000313) = some (0xFFFFFFFA, 0) := by decide
/-- V-A1, V-A5. -/
theorem test_add : regOf 1 (run1 (st #v[0, 0xFFFFFFFF, 1, 0, 0, 0, 0, 0] 0 false) 0x0000000000020102) = some (0, 0) ∧
    regOf 1 (run1 (st #v[0, 0x80000000, 0, 0, 0, 0, 0, 0] 0 false) 0x0000000000010102) = some (0, 0) := by decide
/-- V-A3. -/
theorem test_add_skips : regOf 1 (run1 (st #v[0, 3, 0, 0, 0, 0, 0, 0] 0 false) 0x0000000000080102) = some (3, 1) := by
  decide
/-- V-A2. -/
theorem test_sub : regOf 1 (run1 (st #v[0, 3, 5, 0, 0, 0, 0, 0] 0 false) 0x0000000000020103) = some (0xFFFFFFFE, 0) := by
  decide
/-- V-A6. -/
theorem test_and : regOf 1 (run1 (st #v[0, 0xF0F0, 0xFF00, 0, 0, 0, 0, 0] 0 false) 0x000000000002010A) =
    some (0xF000, 0) := by decide
/-- V-A7. -/
theorem test_orr : regOf 1 (run1 (st #v[0, 0xF0F0, 0xFF00, 0, 0, 0, 0, 0] 0 false) 0x000000000002010B) =
    some (0xFFF0, 0) := by decide
/-- V-A8; V-A9: the zero flag stays. -/
theorem test_eor : regOf 1 (run1 (st #v[0, 0xF0F0, 0xFF00, 0, 0, 0, 0, 0] 0 false) 0x000000000002010C) =
    some (0x0FF0, 0) := by decide
theorem test_eor_keeps_zf : ctl (run1 (st #v[0, 5, 0, 0, 0, 0, 0, 0] 0 true) 0x000000000001010C) =
    some (1, true, true, .running, 0) := by decide
/-- V-A11; V-A13 under `zero` and `mask5`. -/
theorem test_lsl : regOf 1 (run1 (st #v[0, 1, 0, 0, 0, 0, 0, 0] 0 false) 0x0000001F0000010D) =
    some (0x80000000, 0) := by decide
theorem test_lsl_32 :
    let s := st #v[0, 0x12345678, 0, 0, 0, 0, 0, 0] 0 false
    regOf 1 (run1 s 0x000000200000010D) = some (0, 0) ∧
    regOf 1 (run1 { s with params := { shiftGe32 := .mask5 } } 0x000000200000010D) = some (0x12345678, 0) := by decide
/-- V-A15; V-A16 under `zero` and `mask5`. -/
theorem test_lsr : regOf 1 (run1 (st #v[0, 0x80000000, 0, 0, 0, 0, 0, 0] 0 false) 0x000000040000010E) =
    some (0x08000000, 0) := by decide
theorem test_lsr_36 :
    let s := st #v[0, 0xFFFFCBAD, 0, 0, 0, 0, 0, 0] 0 false
    regOf 1 (run1 s 0x000000240000010E) = some (0, 0) ∧
    regOf 1 (run1 { s with params := { shiftGe32 := .mask5 } } 0x000000240000010E) = some (0x0FFFFCBA, 0) := by decide
/-- V-A17. -/
theorem test_mul : regOf 1 (run1 (st #v[0, 0xFFFFFFFF, 0xFFFFFFFF, 0, 0, 0, 0, 0] 0 false) 0x000000000002010F) =
    some (1, 0) := by decide
/-- V-A20; V-A22 and V-A24: a zero divisor, and the register check before it. -/
theorem test_udiv : regOf 1 (run1 (st #v[0, 0xFFFFFFFF, 2, 0, 0, 0, 0, 0] 0 false) 0x0000000000020110) =
    some (0x7FFFFFFF, 0) := by decide
theorem test_udiv_skips : regOf 1 (run1 (st zeros 0 false) 0x0000000000010110) = some (0, 3) ∧
    regOf 3 (run1 (st zeros 0 false) 0x0000000000030910) = some (0, 1) := by decide
/-- V-A25, V-A27. -/
theorem test_neg : regOf 7 (run1 (st #v[0, 0, 0, 0, 0, 0, 0, 1] 0 false) 0x0000000000000711) = some (0xFFFFFFFF, 0) ∧
    regOf 7 (run1 (st #v[0, 0, 0, 0, 0, 0, 0, 0x80000000] 0 false) 0x0000000000000711) = some (0x80000000, 0) := by decide
/-- V-L1, V-L5. -/
theorem test_load :
    regOf 2 (run1 { st #v[0, 0, 0xFFFFFFFF, 0, 0, 0, 0, 0] 0 false with mem := [(100, 0xAB)] } 0x0000006400000204) =
      some (0xAB, 0) := by decide
theorem test_load_skips : regOf 0 (run1 (st #v[5, 0, 0, 0, 0, 0, 0, 0] 0 false) 0x0000040000000004) = some (5, 2) := by
  decide
/-- V-L2; V-L6. -/
theorem test_store : (run1 (st #v[0x1234, 0, 0, 0, 0, 0, 0, 0] 0 false) 0x0000000700000005).map State.mem =
    some [(7, 0x34)] := by decide
theorem test_store_skips : (run1 (st #v[5, 0, 0, 0, 0, 0, 0, 0] 0 false) 0xFFFFFFFF00000005).map State.mem = some [] := by
  decide
/-- V-C1, V-C3; V-C2. -/
theorem test_cmp : ctl (run1 (st #v[0, 0, 0, 4, 4, 0, 0, 0] 0 false) 0x0000000000040307) =
      some (1, true, true, .running, 0) ∧
    ctl (run1 (st #v[1, 2, 0, 0, 0, 0, 0, 0] 0 true) 0x0000000000010007) = some (1, false, true, .running, 0) := by decide
theorem test_cmp_skips : ctl (run1 (st zeros 0 true) 0x0000000000080307) = some (1, true, true, .running, 1) := by decide
/-- V-C6; V-C7. -/
theorem test_jmp : ctl (run1 (st zeros 3 false) 0x000003FF00000006) = some (1023, false, true, .running, 0) := by decide
theorem test_jmp_skips : ctl (run1 (st zeros 3 false) 0x0000040000000006) = some (4, false, true, .running, 4) := by
  decide
/-- V-C9, V-C8; V-C10. -/
theorem test_je : ctl (run1 (st zeros 3 true) 0x0000000500000008) = some (5, true, true, .running, 0) ∧
    ctl (run1 (st zeros 3 false) 0x0000000500000008) = some (4, false, true, .running, 0) := by decide
theorem test_je_skips : ctl (run1 (st zeros 3 false) 0x0000040000000008) = some (4, false, true, .running, 4) := by decide
/-- V-S1, V-S3. -/
theorem test_nop : ctl (run1 (st zeros 5 false) 0) = some (6, false, true, .running, 0) := by decide
theorem test_nop_at_end : ctl (run1 (st zeros 1023 false) 0) = some (1024, false, true, .halted, 0) := by decide
/-- V-S2. -/
theorem test_halt : ctl (run1 (st zeros 2 false) 9) = some (2, false, false, .halted, 0) := by decide
/-- V-S4, V-S5; V-S6, V-S7, V-S8. -/
theorem test_print : evs (run1 (st #v[0, 0, 0, 0, 0, 0, 0, 9] 0 false) 0x0000000700000014) = some ([.printReg 7 9], 0) ∧
    evs (run1 { st zeros 0 false with mem := [(1023, 0xFF)] } 0x000003FF00000114) = some ([.printMem 1023 255], 0) := by
  decide
theorem test_print_skips : evs (run1 (st zeros 0 false) 0x0000000800000014) = some ([], 1) ∧
    evs (run1 (st zeros 0 false) 0x0000040000000114) = some ([], 2) ∧
    evs (run1 (st zeros 0 false) 0x0000000300000214) = some ([], 5) := by decide
/-- V-S9. -/
theorem test_tdraw_clear : evs (run1 (st zeros 0 false) 0x15) = some ([.clear], 0) := by decide
/-- V-S10; V-S11 under `check` and `mask3`. -/
theorem test_tdraw_pixel : evs (run1 (st #v[0, 10, 4, 0, 0, 0, 0, 0] 0 false) 0x002A020100000016) =
    some ([.pixel 10 4 42], 0) := by decide
theorem test_tdraw_pixel_selector :
    let s := st #v[0, 10, 4, 0, 0, 0, 0, 0] 0 false
    evs (run1 s 0x0041000900000016) = some ([], 1) ∧
    evs (run1 { s with params := { pixelSel := .mask3 } } 0x0041000900000016) = some ([.pixel 10 0 0x41], 0) := by decide

/-! The fault, the run start and the first instruction after reset. -/

/-- V-X1; V-X4: the run start after it. -/
theorem test_illegal_opcode : ctl (run1 (st #v[1, 0, 0, 0, 0, 0, 0, 0] 1 false) 0x17) =
    some (1, false, true, .halted, 6) := by decide
theorem test_run_after_fault :
    (run1 (st #v[1, 0, 0, 0, 0, 0, 0, 0] 1 false) 0x17).map (fun t => (t.fault, t.runStart.fault, t.runStart.engine,
      t.runStart.pc, t.runStart.readReg 0)) = some (true, false, .running, 0, 1) := by decide
/-- L1.2 from reset: the machine is made ready to run and the word is fetched. -/
theorem test_first_instruction : regOf 0 (run1 State.reset 0x0000002A00000001) = some (42, 0) := by decide

/-! The assembler and the loader (95_test_vectors.md 2.7), with TOKEN_MAX given as 64. -/

/-- Parameters with a token bound. -/
def p64 : Params := { tokenMax := some 64 }

/-- L1.2, V-E2, V-E13. -/
theorem test_asm_registers :
    lineWord p64 (ascii ['M', 'O', 'V', ' ', 'r', '3', ' ', '1', '2', 'a', 'b']) = some 0x0000000C00000301 ∧
    lineWord p64 (ascii ['M', 'O', 'V', ' ', 'R', ' ', '5']) = some 0x000000050000D001 := by decide
/-- V-E14, V-E15. -/
theorem test_asm_decimals :
    lineWord p64 (ascii ['M', 'O', 'V', ' ', 'R', '1', ' ', '-', '1']) = some 0xFFFFFFFF00000101 ∧
    assembleLine p64 (ascii ['M', 'O', 'V', ' ', 'R', '1', ' ', '4', '2', '9', '4', '9', '6', '7', '2', '9', '6']) =
      .refused .immOverflow := by decide
/-- V-E3, V-E4, V-E5, V-E6, V-E7. -/
theorem test_asm_failures :
    assembleLine p64 (ascii ['M', 'O', 'V', ' ', 'R', '1']) = .fails ∧
    assembleLine p64 (ascii ['m', 'o', 'v', ' ', 'R', '1', ' ', '5']) = .fails ∧
    assembleLine p64 (ascii ['M', 'O', 'V', ' ', 'R', '1', ' ', '5', ' ', '6']) = .fails ∧
    assembleLine p64 (ascii ['H', 'A', 'L', 'T', ' ', 'x']) = .fails ∧
    assembleLine p64 (ascii [' ', ' ']) = .fails := by decide
/-- V-E9, V-E10. -/
theorem test_asm_print :
    assembleLine p64 (ascii ['P', 'R', 'I', 'N', 'T', ' ', 'r', 'e', 'g', ' ', '7']) = .fails ∧
    lineWord p64 (ascii ['P', 'R', 'I', 'N', 'T', ' ', 'M', 'E', 'M', ' ', '1', '0', '2', '3']) =
      some 0x000003FF00000114 := by decide
/-- V-E11. -/
theorem test_asm_pixel : lineWord p64 (ascii ['T', 'D', 'R', 'A', 'W', '_', 'P', 'I', 'X', 'E', 'L', ' ', 'R', '9', ' ',
    'R', '0', ' ', 'A', 'B']) = some 0x0041000900000016 := by decide
/-- L1.8: one valid and one malformed line load one word. -/
theorem test_load_drops_malformed :
    assembleText p64 (ascii ['M', 'O', 'V', ' ', 'R', '0', ' ', '4', '2', '\n', 'F', 'O', 'O', ' ', '1']) =
      some [0x0000002A00000001] := by decide
/-- The strict reading refuses what D5 and D29 advise to refuse. -/
theorem test_asm_strict :
    assembleStrict p64 (ascii ['N', 'E', 'G', ' ', 'R', '8']) = .refused .registerToken ∧
    assembleStrict p64 (ascii ['N', 'O', 'P', ' ', '1']) = .refused .extraFields ∧
    assembleStrict p64 (ascii ['N', 'E', 'G', ' ', 'R', '7']) = .instr (.neg 7) := by decide
/-- L1.9: a host read at 2000. -/
theorem test_host_invalid_address : State.reset.hostCommand (.mem 2000) = .accepted State.reset .invalidAddress := by
  decide
/-- R196, P2: `MEM[10] = 44`. -/
theorem test_render : renderEvent (.printMem 10 44) =
    .line (ascii ['M', 'E', 'M', '[', '1', '0', ']', ' ', '=', ' ', '4', '4']) := by decide

end Sys2Proof.Tests
end

