-- ==== Sys2Proof/Tests/Witnesses.lean ====
section
/-! SUPPORT. For every obligation with hypotheses, a concrete state and operands that meet them, each clause at a boundary
value of its range. -/

namespace Sys2Proof.Tests
open Sys2Proof.Machine

/-- A Running state whose next fetch gives `w`. -/
def about (s : State) (w : Nat) : State := s.withFetchWord 64 w

/-- A Running state at the last slot. -/
def lastSlot : State := st zeros 1023 false

/-! Encoding. -/

theorem witness_DecodeThenEncodeKeepsUsedBits : decode 0xFFFFFFFFFF080712 = .ok (.movz 7 0xFFFFFFFF) := by decide
theorem witness_UnusedFieldsAreIgnored :
    Opcode.ofByte ((0x2AFF000001#64).extractLsb' 0 8) = some .mov ∧
      0x2AFF000001#64 &&& usedMask .mov = 0x2A00FF0001#64 &&& usedMask .mov := by decide
theorem witness_ReservedOpcodesAreNoInstructions :
    23 ≤ ((23#64).extractLsb' 0 8).toNat ∧ 23 ≤ ((255#64).extractLsb' 0 8).toNat ∧
      ((22#64).extractLsb' 0 8).toNat < 23 := by decide
theorem witness_WrittenOutWordsDecode : (0xFFFFFFFFFFFFFF00#64).extractLsb' 0 8 = 0 := by decide
theorem witness_WordBytesAreLittleEndian : (7 : Nat) < 8 ∧ (0 : Nat) < 8 := by decide

/-! The step. -/

theorem witness_StepRunsDecodedInstr :
    (about lastSlot 9).engine = .running ∧ (about lastSlot 9).pc.toNat < 1024 ∧
      decode ((about lastSlot 9).readSlot (about lastSlot 9).pc.toNat) = .ok .halt := by decide
theorem witness_IllegalOpcodeHaltsEngine :
    (about lastSlot 23).engine = .running ∧ (about lastSlot 23).pc.toNat < 1024 ∧
      23 ≤ (((about lastSlot 23).readSlot (about lastSlot 23).pc.toNat).extractLsb' 0 8).toNat := by decide
theorem witness_HaltedCoreChangesNothing : State.reset.engine = .halted := by decide
theorem witness_EndOfStoreHaltsBeforeFetch :
    (st zeros 1024 false).engine = .running ∧ 1024 ≤ (st zeros 1024 false).pc.toNat := by decide
theorem witness_StepIsTotal :
    step (about lastSlot 23) = .next (about lastSlot 23).raiseIllegalOpcode ∧
      (about lastSlot 23).raiseIllegalOpcode.fault ≠ (about lastSlot 23).fault := ⟨rfl, by decide⟩

/-- The invariant at a Running state about to execute a word. -/
theorem inv_about (w : Nat) (h : InstrStore.wf (about lastSlot w).istore = true) : Inv (about lastSlot w) where
  mem_wf := rfl
  istore_wf := h
  pc_le := show (1023 : Word).toNat ≤ 1024 by decide
  pc_lt := fun _ => show (1023 : Word).toNat < 1024 by decide
  running_set := fun _ => rfl
  no_fault := fun _ => rfl
  fault_running := fun h => by cases h

theorem witness_StepKeepsInvariant :
    Inv (about lastSlot 0) ∧ step (about lastSlot 0) = .next ((about lastSlot 0).retire .seq .ok) :=
  ⟨inv_about 0 (by decide), rfl⟩
theorem witness_ReachableStatesMeetInvariant :
    ReachablePlaced (((State.powerOn p64).placeWords [0x17]).runStart) ∧
      ReachablePlaced (((State.powerOn p64).placeWords [0x17]).runStart.raiseIllegalOpcode) := by
  have h : ReachablePlaced (((State.powerOn p64).placeWords [0x17]).runStart) :=
    .host (c := .run) (r := .started) (.placed [0x17] (.powerOn p64) rfl) rfl
  exact ⟨h, .step h rfl⟩
/-- A loaded program of one line, running. -/
theorem witness_LoadedTextNeverFaults :
    Reachable (((State.powerOn p64).placeWords [9]).runStart) := by
  have h : (State.powerOn p64).hostCommand (.load (ascii ['H', 'A', 'L', 'T'])) =
      .accepted ((State.powerOn p64).placeWords [9]) .loaded := by decide
  exact .host (c := .run) (r := .started) (.host (.powerOn p64) h) rfl
theorem witness_RunEndsInOneOfThreeWays :
    (Inv (about lastSlot 9) ∧ (about lastSlot 9).engine = .running ∧
      step (about lastSlot 9) = .next (((about lastSlot 9).setRunning false).retire .stop .ok) ∧
      (((about lastSlot 9).setRunning false).retire .stop .ok).engine = .halted) ∧
    (Inv (about lastSlot 0) ∧ (about lastSlot 0).engine = .running ∧
      step (about lastSlot 0) = .next ((about lastSlot 0).retire .seq .ok) ∧
      ((about lastSlot 0).retire .seq .ok).engine = .halted) ∧
    (Inv (about lastSlot 23) ∧ (about lastSlot 23).engine = .running ∧
      step (about lastSlot 23) = .next (about lastSlot 23).raiseIllegalOpcode ∧
      (about lastSlot 23).raiseIllegalOpcode.engine = .halted) :=
  ⟨⟨inv_about 9 (by decide), rfl, rfl, rfl⟩, ⟨inv_about 0 (by decide), rfl, rfl, rfl⟩,
    ⟨inv_about 23 (by decide), rfl, rfl, rfl⟩⟩

/-! The whole-machine rules: a step that makes the change each of them speaks of. -/

theorem witness_OnlyCmpWritesZeroFlag :
    step (about lastSlot 7) = .next (((about lastSlot 7).setZf true).retire .seq .ok) ∧
      (((about lastSlot 7).setZf true).retire .seq .ok).zf ≠ (about lastSlot 7).zf := ⟨rfl, by decide⟩
/-- STORE R7 1023 with R7 = 0xFF. -/
def storing : State := about (st #v[0, 0, 0, 0, 0, 0, 0, 0xFF] 0 false) 0x000003FF00000705
theorem witness_OnlyStoreWritesMemory :
    step storing = .next ((storing.writeMem 1023 0xFF).retire .seq .ok) ∧
      ((storing.writeMem 1023 0xFF).retire .seq .ok).readMem 1023 ≠ storing.readMem 1023 := ⟨rfl, by decide⟩
theorem witness_StepNeverWritesInstructionStore :
    step storing = .next ((storing.writeMem 1023 0xFF).retire .seq .ok) := rfl
theorem witness_OnlyHaltWritesRunning :
    step (about lastSlot 9) = .next (((about lastSlot 9).setRunning false).retire .stop .ok) ∧
      (((about lastSlot 9).setRunning false).retire .stop .ok).running ≠ (about lastSlot 9).running := ⟨rfl, by decide⟩
/-- MOVN R7 0. -/
def moving : State := about (st zeros 0 false) 0x713
theorem witness_RegistersWrittenOnlyByListedInstrs :
    step moving = .next ((moving.writeReg 7 0xFFFFFFFF).retire .seq .ok) ∧
      ((moving.writeReg 7 0xFFFFFFFF).retire .seq .ok).readReg 7 ≠ moving.readReg 7 := ⟨rfl, by decide⟩
theorem witness_AtMostOneEventPerStep :
    step (about lastSlot 21) = .next (((about lastSlot 21).emit .clear).retire .seq .ok) := rfl
/-- JMP 1023 at slot 0, and JE 0 with `zf` = 1 at slot 1023. -/
theorem witness_PcMovesToSuccessorOrTarget :
    ((about (st zeros 0 false) 0x3FF00000006).engine = .running ∧
      step (about (st zeros 0 false) 0x3FF00000006) =
        .next ((about (st zeros 0 false) 0x3FF00000006).retire (.jump 1023) .ok)) ∧
    ((about (st zeros 1023 true) 8).engine = .running ∧
      step (about (st zeros 1023 true) 8) = .next ((about (st zeros 1023 true) 8).retire (.jump 0) .ok)) :=
  ⟨⟨rfl, rfl⟩, rfl, rfl⟩
theorem witness_EventsDoNotFeedBack :
    step (about lastSlot 21) = .next (((about lastSlot 21).emit .clear).retire .seq .ok) := rfl
theorem witness_OnlyJeReadsZeroFlag :
    (∀ target, Instr.cmp 7 7 ≠ .je target) ∧
      exec (.cmp 7 7) lastSlot = .next ((lastSlot.setZf true).retire .seq .ok) := ⟨fun _ => Instr.noConfusion, rfl⟩
theorem witness_FailedGuardHasNoEffect :
    exec (.mov 8 1) lastSlot = .next (lastSlot.skip .regRange) ∧
      (lastSlot.skip .regRange).status = some .regRange ∧ Status.regRange ≠ .ok := ⟨rfl, rfl, by decide⟩
/-- One instruction for each guard of R129, and one that passes them all. -/
theorem witness_FirstFailingGuardIsReported :
    exec (.print 2 0) lastSlot = .next (lastSlot.skip .modeInvalid) ∧
      exec (.load 8 1024) lastSlot = .next (lastSlot.skip .regRange) ∧
      exec (.load 7 1024) lastSlot = .next (lastSlot.skip .memRange) ∧
      exec (.jmp 1024) lastSlot = .next (lastSlot.skip .targetRange) ∧
      exec (.udiv 7 7) lastSlot = .next (lastSlot.skip .divZero) ∧
      exec .nop lastSlot = .next (lastSlot.retire .seq .ok) := ⟨rfl, rfl, rfl, rfl, rfl, rfl⟩

/-! The instructions. `EncodedAs` asks for a word with the opcode; the rules ask for an index below 8, or not. -/

theorem witness_register_index : (7 : Byte).toNat = ((7 : Fin 8) : Nat) ∧ 8 ≤ (8 : Byte).toNat := by decide
theorem witness_MovWritesImmediate :
    (0x0000000500000701#64).extractLsb' 0 8 = 1 ∧ (7 : Byte).toNat = ((7 : Fin 8) : Nat) ∧ 8 ≤ (8 : Byte).toNat := by
  decide
theorem witness_MovzWritesLowHalf :
    (0x0001000000000712#64).extractLsb' 0 8 = 18 ∧ (7 : Byte).toNat = ((7 : Fin 8) : Nat) ∧ 8 ≤ (8 : Byte).toNat := by
  decide
theorem witness_MovnWritesComplement :
    (0x0000000500000713#64).extractLsb' 0 8 = 19 ∧ (7 : Byte).toNat = ((7 : Fin 8) : Nat) ∧ 8 ≤ (8 : Byte).toNat := by
  decide
theorem witness_AddWrapsModulo :
    (0x70702#64).extractLsb' 0 8 = 2 ∧ (7 : Byte).toNat = ((7 : Fin 8) : Nat) ∧
      (8 ≤ (8 : Byte).toNat ∨ 8 ≤ (0 : Byte).toNat) ∧ (8 ≤ (0 : Byte).toNat ∨ 8 ≤ (8 : Byte).toNat) := by decide
theorem witness_SubWrapsModulo :
    (0x70703#64).extractLsb' 0 8 = 3 ∧ (7 : Byte).toNat = ((7 : Fin 8) : Nat) ∧
      (8 ≤ (8 : Byte).toNat ∨ 8 ≤ (0 : Byte).toNat) ∧ (8 ≤ (0 : Byte).toNat ∨ 8 ≤ (8 : Byte).toNat) := by decide
theorem witness_BitwiseOperationsActPerBit :
    (0x7070A#64).extractLsb' 0 8 = 10 ∧ (0x7070B#64).extractLsb' 0 8 = 11 ∧ (0x7070C#64).extractLsb' 0 8 = 12 ∧
      (7 : Byte).toNat = ((7 : Fin 8) : Nat) ∧
      (8 ≤ (8 : Byte).toNat ∨ 8 ≤ (0 : Byte).toNat) ∧ (8 ≤ (0 : Byte).toNat ∨ 8 ≤ (8 : Byte).toNat) := by decide
theorem witness_MulKeepsLowWord :
    (0x7070F#64).extractLsb' 0 8 = 15 ∧ (7 : Byte).toNat = ((7 : Fin 8) : Nat) ∧
      (8 ≤ (8 : Byte).toNat ∨ 8 ≤ (0 : Byte).toNat) ∧ (8 ≤ (0 : Byte).toNat ∨ 8 ≤ (8 : Byte).toNat) := by decide

/-- A state with a value of SHIFT_GE32. -/
def shifting (v : ShiftGe32) : State := { lastSlot with params := { shiftGe32 := v } }
theorem witness_LslShiftsLeft :
    (0x1F0000070D#64).extractLsb' 0 8 = 13 ∧ (7 : Byte).toNat = ((7 : Fin 8) : Nat) ∧ 8 ≤ (8 : Byte).toNat ∧
      (31 : Word).toNat < 32 ∧ 32 ≤ (32 : Word).toNat ∧ (shifting .zero).params.shiftGe32 = .zero ∧
      (shifting .mask5).params.shiftGe32 = .mask5 ∧ (shifting .draw).params.shiftGe32 = .draw := by decide
theorem witness_LsrShiftsRight :
    (0x1F0000070E#64).extractLsb' 0 8 = 14 ∧ (7 : Byte).toNat = ((7 : Fin 8) : Nat) ∧ 8 ≤ (8 : Byte).toNat ∧
      (31 : Word).toNat < 32 ∧ 32 ≤ (32 : Word).toNat ∧ (shifting .zero).params.shiftGe32 = .zero ∧
      (shifting .mask5).params.shiftGe32 = .mask5 ∧ (shifting .draw).params.shiftGe32 = .draw := by decide
theorem witness_UdivDividesOrSkips :
    (0x70710#64).extractLsb' 0 8 = 16 ∧ (7 : Byte).toNat = ((7 : Fin 8) : Nat) ∧
      storing.readReg 7 ≠ 0 ∧ lastSlot.readReg 7 = 0 ∧
      (8 ≤ (8 : Byte).toNat ∨ 8 ≤ (0 : Byte).toNat) ∧ (8 ≤ (0 : Byte).toNat ∨ 8 ≤ (8 : Byte).toNat) := by decide
theorem witness_NegNegatesModulo :
    (0x711#64).extractLsb' 0 8 = 17 ∧ (7 : Byte).toNat = ((7 : Fin 8) : Nat) ∧ 8 ≤ (8 : Byte).toNat := by decide
theorem witness_LoadReadsByteZeroExtended :
    (0x3FF00000704#64).extractLsb' 0 8 = 4 ∧ (7 : Byte).toNat = ((7 : Fin 8) : Nat) ∧ (7 : Byte).toNat < 8 ∧
      8 ≤ (8 : Byte).toNat ∧ (1023 : Word).toNat < 1024 ∧ 1024 ≤ (1024 : Word).toNat := by decide
theorem witness_StoreWritesLowByte :
    (0x3FF00000705#64).extractLsb' 0 8 = 5 ∧ (7 : Byte).toNat = ((7 : Fin 8) : Nat) ∧ (7 : Byte).toNat < 8 ∧
      memAddress? 1023 = some 1023 ∧ memAddress? 0 = some 0 ∧ (1023 : Word).toNat < 1024 ∧
      8 ≤ (8 : Byte).toNat ∧ 1024 ≤ (1024 : Word).toNat := by decide
theorem witness_LoadReturnsLatestStore :
    (7 : Byte).toNat = ((7 : Fin 8) : Nat) ∧ (0 : Byte).toNat = ((0 : Fin 8) : Nat) ∧ (1023 : Word).toNat < 1024 := by
  decide
theorem witness_CmpSetsZeroFlag :
    (0x70707#64).extractLsb' 0 8 = 7 ∧ (7 : Byte).toNat = ((7 : Fin 8) : Nat) ∧
      (8 ≤ (8 : Byte).toNat ∨ 8 ≤ (0 : Byte).toNat) ∧ (8 ≤ (0 : Byte).toNat ∨ 8 ≤ (8 : Byte).toNat) := by decide
theorem witness_JmpGoesToTarget :
    (0x3FF00000006#64).extractLsb' 0 8 = 6 ∧ (1023 : Word).toNat < 1024 ∧ 1024 ≤ (1024 : Word).toNat := by decide
theorem witness_JeJumpsOnZeroFlag :
    (0x3FF00000008#64).extractLsb' 0 8 = 8 ∧ (1023 : Word).toNat < 1024 ∧ 1024 ≤ (1024 : Word).toNat ∧
      (st zeros 3 true).zf = true ∧ (st zeros 3 false).zf = false := by decide
theorem witness_NopChangesOnlyPc : (0xFFFFFFFFFFFFFF00#64).extractLsb' 0 8 = 0 := by decide
theorem witness_HaltStopsTheRun : (0xFFFFFFFFFFFFFF09#64).extractLsb' 0 8 = 9 := by decide
theorem witness_PrintEmitsRegisterOrCell :
    (0x3FF00000114#64).extractLsb' 0 8 = 20 ∧ (7 : Word).toNat = ((7 : Fin 8) : Nat) ∧
      (1023 : Word).toNat = ((1023 : Fin 1024) : Nat) ∧ 8 ≤ (8 : Word).toNat ∧ 1024 ≤ (1024 : Word).toNat ∧
      2 ≤ (2 : Byte).toNat := by decide
theorem witness_TdrawClearEmitsClear : (0xFFFFFFFFFFFFFF15#64).extractLsb' 0 8 = 21 := by decide
theorem witness_TdrawPixelEmitsPixel :
    (0x2A020100000016#64).extractLsb' 0 8 = 22 ∧ lastSlot.params.pixelSel = .check ∧
      ({ lastSlot with params := { pixelSel := .mask3 } } : State).params.pixelSel = .mask3 ∧
      (7 : Byte).toNat = ((7 : Fin 8) : Nat) ∧ (255 : Byte).toNat % 8 = ((7 : Fin 8) : Nat) ∧
      (8 ≤ (8 : Byte).toNat ∨ 8 ≤ (0 : Byte).toNat) ∧ (8 ≤ (0 : Byte).toNat ∨ 8 ≤ (8 : Byte).toNat) := by decide

/-! Reset and the host. -/

theorem witness_PowerOnValues : (1023 : Nat) < 1024 := by decide
theorem witness_HostActsOnlyWhileHalted :
    lastSlot.engine = .running ∧ State.reset.engine = .halted ∧
      State.reset.hostCommand .run = .accepted State.reset.runStart .started ∧
      (State.powerOn p64).hostCommand (.load (ascii ['H', 'A', 'L', 'T'])) =
        .accepted ((State.powerOn p64).placeWords [9]) .loaded := by decide
theorem witness_HostLoadFillsStore :
    (State.powerOn p64).engine = .halted ∧
      assembleText (State.powerOn p64).params (ascii ['H', 'A', 'L', 'T', '\n', 'N', 'E', 'G', ' ', 'R', '7']) =
        some [9, 0x711] ∧ (1 : Nat) < [9#64, 0x711#64].length ∧ [9#64, 0x711#64].length ≤ 2 := by decide
theorem witness_HostReadsChangeNothing :
    State.reset.engine = .halted ∧ (1023 : Nat) < 1024 ∧ (1024 : Nat) ≤ 1024 := by decide
theorem witness_FuelExhaustionIsNoHalt :
    runToHalt 1 (about lastSlot 9) = some (((about lastSlot 9).setRunning false).retire .stop .ok) := rfl

/-! The assembler. -/

theorem witness_LoaderKeepsAssembledLinesInOrder :
    ∀ l ∈ [ascii ['H', 'A', 'L', 'T'], ascii ['F', 'O', 'O'], ascii ['N', 'O', 'P']],
      ∀ why, assembleLine p64 l ≠ .refused why := by
  intro l hl why
  simp only [List.mem_cons, List.not_mem_nil, or_false] at hl
  rcases hl with rfl | rfl | rfl <;> cases why <;> decide
/-- A line of whitespace, a given bound, LSL as a row's spelling, `lsl` as none, and a wrong argument count. -/
theorem witness_MnemonicAndArgumentCountMustMatch :
    (∀ c ∈ ascii [' ', '\n'], (c = 0x20 ∨ c = 0x09 ∨ c = 0x0A ∨ c = 0x0D ∨ c = 0x0B ∨ c = 0x0C)) ∧
      p64.tokenMax = some 64 ∧ mnemonicOf (ascii ['L', 'S', 'L']) = some .lsl ∧
      mnemonicOf (ascii ['l', 's', 'l']) = none ∧ [ascii ['R', '1']].length ≠ 2 := by decide
/-- A decimal token with a value and one without, a keyword that is neither REG nor MEM. -/
theorem witness_TableRowsAssembleToTheirWords :
    decimalToken p64 (ascii ['4', '2']) = some 42 ∧
      decimalToken p64 (ascii ['4', '2', '9', '4', '9', '6', '7', '2', '9', '6']) = none ∧
      ascii ['r', 'e', 'g'] ≠ ascii ['R', 'E', 'G'] ∧ ascii ['r', 'e', 'g'] ≠ ascii ['M', 'E', 'M'] := by decide
/-- The numerals 42 and 2^31 with a rest, 2^32 and 2^31 + 1, and no digits before a letter. -/
theorem witness_DecimalTokensReadNumerals :
    (∀ c cs, ([0x61] : List Byte) = c :: cs → ¬ (0x30 ≤ c.toNat ∧ c.toNat ≤ 0x39)) ∧
    (∀ c cs, ([0x61] : List Byte) = c :: cs → c ≠ 0x2B ∧ c ≠ 0x2D) ∧
    ([4, 2] : List (Fin 10)).foldl (fun (a : Nat) (d : Fin 10) => a * 10 + d.val) 0 < 2 ^ 32 ∧
    2 ^ 32 ≤ ([4, 2, 9, 4, 9, 6, 7, 2, 9, 6] : List (Fin 10)).foldl (fun (a : Nat) (d : Fin 10) => a * 10 + d.val) 0 ∧
    ([2, 1, 4, 7, 4, 8, 3, 6, 4, 8] : List (Fin 10)).foldl (fun (a : Nat) (d : Fin 10) => a * 10 + d.val) 0 ≤ 2 ^ 31 ∧
    2 ^ 31 < ([2, 1, 4, 7, 4, 8, 3, 6, 4, 9] : List (Fin 10)).foldl (fun (a : Nat) (d : Fin 10) => a * 10 + d.val) 0 ∧
    p64.immOverflow = .refuse ∧ ({ immOverflow := .free } : Params).immOverflow = .free := by
  refine ⟨?_, ?_, by decide, by decide, by decide, by decide, by decide, by decide⟩ <;>
    (intro c cs h; cases h; decide)

end Sys2Proof.Tests
end

