-- ==== Sys2Proof/Proofs/Scope.lean ====
section
/-! SUPPORT. No step writes the instruction store (10_state.md R46, R72) or the parameters (00_scope.md R9): read off what an
effect, an instruction and a step can do. -/

namespace Sys2Proof.Machine

/-- An instruction's effect writes registers, data memory, flags or the output trace, never the program. -/
theorem EffectOf.istore_params_eq {s u : State} {i : Instr} {n : NextPc} (h : EffectOf s i u n) :
    u.istore = s.istore ∧ u.params = s.params := by
  cases h with
  | reg d v hi hs => rcases hs with rfl | rfl <;> exact ⟨rfl, rfl⟩
  | store | cmp | jump | none | event | halt => exact ⟨rfl, rfl⟩

theorem exec_keeps_istore_params {i : Instr} {s t : State} (h : exec i s = .next t) :
    t.istore = s.istore ∧ t.params = s.params := by
  rcases exec_does i s with ⟨c, -, hskip⟩ | ⟨u, n, heffect, hretire⟩
  · cases h.symm.trans hskip
    simp [State.skip]
  · cases h.symm.trans hretire
    simpa using heffect.istore_params_eq

/-- Settles O19: of the four things a step can do, only executing an instruction is more than a change of the engine, fault
and status fields. -/
theorem stepNeverWritesInstructionStore : Obligations.StepNeverWritesInstructionStore := by
  intro s t h
  rcases step_cases s with ⟨-, hidle⟩ | ⟨-, -, hend⟩ | ⟨i, -, -, hexec⟩ | ⟨-, -, -, hfault⟩
  · cases h.symm.trans hidle
    exact ⟨rfl, rfl⟩
  · cases h.symm.trans hend
    exact ⟨rfl, rfl⟩
  · exact exec_keeps_istore_params (hexec.symm.trans h)
  · cases h.symm.trans hfault
    exact ⟨rfl, rfl⟩

end Sys2Proof.Machine
end

/-! SUPPORT. The state rules (10_state.md): the invariant that every step and every host command keeps, why a core loaded with
program text never faults, which instruction alone writes the zero flag, the run flag or a register, and which one alone reads
the zero flag. -/

namespace Sys2Proof.Machine

/-! What an effect leaves unchanged, and which instruction it is otherwise. -/

/-- Only the fetch of an undefined opcode raises the fault flag (R43), so no instruction's effect does. -/
theorem EffectOf.fault_eq {s u : State} {i : Instr} {n : NextPc} (h : EffectOf s i u n) : u.fault = s.fault := by
  cases h with
  | reg d v hi hs => rcases hs with rfl | rfl <;> rfl
  | store | cmp | jump | none | event | halt => rfl

theorem EffectOf.zf_eq_or_cmp {s u : State} {i : Instr} {n : NextPc} (h : EffectOf s i u n) :
    u.zf = s.zf ∨ ∃ ra rb, i = .cmp ra rb := by
  cases h with
  | cmp ra rb b => exact .inr ⟨ra, rb, rfl⟩
  | reg d v hi hs => rcases hs with rfl | rfl <;> exact .inl rfl
  | store | jump | none | event | halt => exact .inl rfl

theorem EffectOf.running_eq_or_halt {s u : State} {i : Instr} {n : NextPc} (h : EffectOf s i u n) :
    u.running = s.running ∨ (i = .halt ∧ u.running = false) := by
  cases h with
  | halt => exact .inr ⟨rfl, rfl⟩
  | reg d v hi hs => rcases hs with rfl | rfl <;> exact .inl rfl
  | store | cmp | jump | none | event => exact .inl rfl

theorem EffectOf.readReg_eq_or_dest {s u : State} {i : Instr} {n : NextPc} (h : EffectOf s i u n) (j : Fin 8) :
    u.readReg j = s.readReg j ∨ destIndex i = some (j : Nat) := by
  cases h with
  | reg d v hi hs =>
    by_cases hjd : j = d
    · exact .inr (hjd ▸ hi)
    · rcases hs with rfl | rfl <;> exact .inl (by simp [State.readReg_writeReg, hjd])
  | store | cmp | jump | none | event | halt => exact .inl rfl

/-- STORE writes a checked address (R63), so the data memory stays canonical. -/
theorem EffectOf.mem_wf {s u : State} {i : Instr} {n : NextPc} (h : EffectOf s i u n) (hs : Memory.wf s.mem = true) :
    Memory.wf u.mem = true := by
  cases h with
  | store rs addr a v ha => exact State.writeMem_wf v hs a.isLt
  | reg d v hi hsame => rcases hsame with rfl | rfl <;> exact hs
  | cmp | jump | none | event | halt => exact hs

/-- The successor of a pc inside the store is at most 1024, the end of the store (R35). -/
theorem pc_succ_le {v : Word} (h : v.toNat < 1024) : (v + 1).toNat ≤ 1024 := by
  rw [BitVec.toNat_add_of_lt] <;> simp <;> omega

theorem EffectOf.next_pc_le {s u : State} {i : Instr} {n : NextPc} (h : EffectOf s i u n) (hpc : s.pc.toNat < 1024) :
    (u.advance n).pc.toNat ≤ 1024 := by
  cases h with
  | jump target hi ht => exact ht.le
  | halt => exact hpc.le
  | reg d v hi hs => rcases hs with rfl | rfl <;> exact pc_succ_le hpc
  | store | cmp | none | event => exact pc_succ_le hpc

/-! What an instruction and a step answer, read backwards from the next state. -/

theorem exec_next_cases {i : Instr} {s t : State} (h : exec i s = .next t) :
    (∃ c, t = s.skip c) ∨ ∃ u n, EffectOf s i u n ∧ t = u.retire n .ok := by
  rcases exec_does i s with ⟨c, -, hskip⟩ | ⟨u, n, heffect, hretire⟩
  · cases h.symm.trans hskip
    exact .inl ⟨c, rfl⟩
  · cases h.symm.trans hretire
    exact .inr ⟨u, n, heffect, rfl⟩

theorem exec_fault_eq {i : Instr} {s t : State} (h : exec i s = .next t) : t.fault = s.fault := by
  rcases exec_next_cases h with ⟨c, rfl⟩ | ⟨u, n, heffect, rfl⟩
  · simp [State.skip]
  · simpa using heffect.fault_eq

/-- A part `f` of the state that neither the end of an instruction, nor the halt at the end of the store, nor the fault
touches changes only by the effect of an executed instruction. -/
theorem step_change_is_effect {α : Type} (f : State → α) (hretire : ∀ u n c, f (State.retire u n c) = f u)
    (hend : ∀ u, f (State.haltAtEnd u) = f u) (hfault : ∀ u, f (State.raiseIllegalOpcode u) = f u)
    {s t : State} (h : step s = .next t) (hne : f t ≠ f s) :
    ∃ i u n, Executes s i ∧ EffectOf s i u n ∧ f t = f u := by
  rcases step_cases s with ⟨-, hstep⟩ | ⟨-, -, hstep⟩ | ⟨i, hi, -, hstep⟩ | ⟨-, -, -, hstep⟩
  · cases h.symm.trans hstep
    exact absurd rfl hne
  · cases h.symm.trans hstep
    exact absurd (hend s) hne
  · rcases exec_next_cases (hstep.symm.trans h) with ⟨c, rfl⟩ | ⟨u, n, heffect, rfl⟩
    · exact absurd (hretire s .seq c) hne
    · exact ⟨i, u, n, hi, heffect, hretire u n .ok⟩
  · cases h.symm.trans hstep
    exact absurd (hfault s) hne

/-! The invariant along a step. -/

/-- Halt detection (R127) alone makes the engine's part of the invariant true: whatever state an instruction leaves with
canonical stores, no fault and a next pc up to 1024, its end meets the invariant. -/
theorem inv_retire {u : State} {n : NextPc} (c : Status) (hmem : Memory.wf u.mem = true)
    (histore : InstrStore.wf u.istore = true) (hfault : u.fault = false) (hpc : (u.advance n).pc.toNat ≤ 1024) :
    Inv (u.retire n c) := by
  have hrunning : (u.retire n c).engine = .running → u.running = true ∧ (u.advance n).pc.toNat < 1024 := by
    rw [State.retire_engine]
    split
    next hon => exact fun _ => hon
    next => exact fun he => by cases he
  exact {
    mem_wf := by simpa using hmem
    istore_wf := by simpa using histore
    pc_le := by simpa using hpc
    pc_lt := fun he => by simpa using (hrunning he).2
    running_set := fun he => by simpa using (hrunning he).1
    no_fault := fun _ => by simpa using hfault
    fault_running := fun hf => by simp [hfault] at hf }

theorem Inv.exec {i : Instr} {s t : State} (hs : Inv s) (he : s.engine = .running) (h : exec i s = .next t) : Inv t := by
  have hpc := hs.pc_lt he
  rcases exec_next_cases h with ⟨c, rfl⟩ | ⟨u, n, heffect, rfl⟩
  · exact inv_retire c hs.mem_wf hs.istore_wf (hs.no_fault he) (pc_succ_le hpc)
  · obtain ⟨histore, -⟩ := heffect.istore_params_eq
    exact inv_retire .ok (heffect.mem_wf hs.mem_wf) (histore ▸ hs.istore_wf)
      (heffect.fault_eq.trans (hs.no_fault he)) (heffect.next_pc_le hpc)

/-- The fault leaves the pc at the faulting word with `running` still set (R123). -/
theorem Inv.raiseIllegalOpcode {s : State} (hs : Inv s) (he : s.engine = .running) : Inv s.raiseIllegalOpcode where
  mem_wf := hs.mem_wf
  istore_wf := hs.istore_wf
  pc_le := hs.pc_le
  pc_lt h := by cases h
  running_set h := by cases h
  no_fault h := by cases h
  fault_running _ := ⟨hs.running_set he, hs.pc_lt he⟩

/-- Settles O12: the invariant rules out the halt at the end of the store, and the other three things a step can do keep
it. -/
theorem stepKeepsInvariant : Obligations.StepKeepsInvariant := by
  intro s t hs h
  rcases step_cases s with ⟨-, hidle⟩ | ⟨he, hge, -⟩ | ⟨i, ⟨he, -⟩, -, hexec⟩ | ⟨he, -, -, hfault⟩
  · cases h.symm.trans hidle
    exact hs
  · exact absurd (hs.pc_lt he) hge.not_gt
  · exact hs.exec he (hexec.symm.trans h)
  · cases h.symm.trans hfault
    exact hs.raiseIllegalOpcode he

/-- Settles O11: each of the four things a step can do is a next state, and three of them keep the fault flag. -/
theorem stepIsTotal : Obligations.StepIsTotal := by
  intro s
  rcases step_cases s with ⟨-, hidle⟩ | ⟨-, -, hend⟩ | ⟨i, -, -, hexec⟩ | ⟨he, -, hw, hfault⟩
  · exact ⟨s, hidle, fun hne => absurd rfl hne⟩
  · exact ⟨s.haltAtEnd, hend, fun hne => absurd rfl hne⟩
  · obtain ⟨t, ht⟩ : ∃ t, exec i s = .next t := by
      rcases exec_does i s with ⟨c, -, hskip⟩ | ⟨u, n, -, hretire⟩
      · exact ⟨_, hskip⟩
      · exact ⟨_, hretire⟩
    exact ⟨t, hexec.trans ht, fun hne => absurd (exec_fault_eq ht) hne⟩
  · exact ⟨s.raiseIllegalOpcode, hfault, fun _ => ⟨he, hw⟩⟩

/-! The invariant along a run: power-on and the host's commands. -/

theorem inv_powerOn (p : Params) : Inv (State.powerOn p) where
  mem_wf := rfl
  istore_wf := rfl
  pc_le := Nat.zero_le _
  pc_lt h := by cases h
  running_set h := by cases h
  no_fault h := by cases h
  fault_running h := by cases h

theorem Inv.placeWords {s : State} (hs : Inv s) (ws : List InstrWord) : Inv (s.placeWords ws) :=
  { hs with istore_wf := s.placeWords_wf ws }

theorem Inv.runStart {s : State} (hs : Inv s) : Inv s.runStart where
  mem_wf := hs.mem_wf
  istore_wf := hs.istore_wf
  pc_le := Nat.zero_le _
  pc_lt _ := by simp [State.runStart_eq]
  running_set _ := rfl
  no_fault _ := rfl
  fault_running h := by cases h

/-- A Halted core performs whatever the host asks (R248). -/
theorem State.hostCommand_of_halted {s : State} (h : s.engine = .halted) (c : HostCommand) :
    s.hostCommand c = s.performHost c := by
  simp only [State.hostCommand, h]

theorem State.hostCommand_of_running {s : State} (h : s.engine = .running) (c : HostCommand) :
    s.hostCommand c = .notAccepted := by
  simp only [State.hostCommand, h]

/-- What an accepted host command can do to the core: nothing, fill the store with an assembled text, or start a run. -/
theorem hostCommand_cases {s t : State} {c : HostCommand} {r : HostReply} (h : s.hostCommand c = .accepted t r) :
    t = s ∨ (∃ text ws, assembleText s.params text = some ws ∧ t = s.placeWords ws) ∨ t = s.runStart := by
  cases he : s.engine with
  | running =>
    rw [State.hostCommand_of_running he] at h
    cases h
  | halted =>
    rw [State.hostCommand_of_halted he] at h
    cases c with
    | regs | mem | loadUnopenable => cases h; exact .inl rfl
    | run => cases h; exact .inr (.inr rfl)
    | load text =>
      simp only [State.performHost, State.hostLoad] at h
      cases hws : assembleText s.params text with
      | none => simp only [hws] at h; cases h; exact .inl rfl
      | some ws => simp only [hws] at h; cases h; exact .inr (.inl ⟨text, ws, hws, rfl⟩)

theorem Inv.hostCommand {s t : State} {c : HostCommand} {r : HostReply} (hs : Inv s)
    (h : s.hostCommand c = .accepted t r) : Inv t := by
  rcases hostCommand_cases h with rfl | ⟨text, ws, -, rfl⟩ | rfl
  · exact hs
  · exact hs.placeWords ws
  · exact hs.runStart

/-- Settles O14, by induction on how the state was reached. -/
theorem reachableStatesMeetInvariant : Obligations.ReachableStatesMeetInvariant := by
  intro s h
  induction h with
  | powerOn p => exact inv_powerOn p
  | step _ hstep ih => exact stepKeepsInvariant _ _ ih hstep
  | host _ hcmd ih => exact ih.hostCommand hcmd
  | placed ws _ _ ih => exact ih.placeWords ws

/-! A core loaded only with text. -/

/-- No slot of the store holds an undefined opcode, and no fault was raised: what text alone can bring about. -/
structure FaultFree (s : State) : Prop where
  defined : ∀ k : Nat, (wordOpcode (s.readSlot k)).toNat < 23
  no_fault : s.fault = false

theorem State.fetch?_eq_some {s : State} {w : InstrWord} (h : s.fetch? = some w) : w = s.readSlot s.pc.toNat := by
  unfold State.fetch? at h
  split at h
  next => exact (Option.some.inj h).symm
  next => cases h

theorem wordOpcode_encode_lt (i : Instr) : (wordOpcode (encode i)).toNat < 23 := by
  by_contra hge
  have hnone := (Opcode.ofByte_eq_none_iff _).mpr (Nat.le_of_not_lt hge)
  rw [Laws.opcodeField_encode] at hnone
  cases hnone

/-- Every word the assembler produces is the encoding of an instruction (R88). -/
theorem assembleText_encodes {p : Params} {text : List Byte} {ws : List InstrWord} (h : assembleText p text = some ws)
    {w : InstrWord} (hw : w ∈ ws) : ∃ i, w = encode i := by
  obtain ⟨is, -, rfl⟩ := Option.map_eq_some_iff.mp h
  obtain ⟨i, -, rfl⟩ := List.mem_map.mp hw
  exact ⟨i, rfl⟩

theorem FaultFree.powerOn (p : Params) : FaultFree (State.powerOn p) where
  defined _ := by show (wordOpcode 0).toNat < 23; decide
  no_fault := rfl

/-- A fault would need the fetch of an undefined opcode, and no step writes the store. -/
theorem FaultFree.step {s t : State} (hs : FaultFree s) (h : step s = .next t) : FaultFree t := by
  obtain ⟨histore, -⟩ := stepNeverWritesInstructionStore s t h
  refine ⟨fun k => by simpa [State.readSlot, histore] using hs.defined k, ?_⟩
  obtain ⟨t', ht', honly⟩ := stepIsTotal s
  cases h.symm.trans ht'
  by_contra hfault
  obtain ⟨-, w, hw, hge⟩ := honly fun heq => hfault (heq.trans hs.no_fault)
  have hlt := hs.defined s.pc.toNat
  rw [← State.fetch?_eq_some hw] at hlt
  exact absurd hlt (Nat.not_lt.mpr hge)

theorem FaultFree.placeWords {s : State} (hs : FaultFree s) {ws : List InstrWord} (hws : ∀ w ∈ ws, ∃ i, w = encode i) :
    FaultFree (s.placeWords ws) := by
  refine ⟨fun k => ?_, hs.no_fault⟩
  rw [State.readSlot_placeWords]
  by_cases hk : k < (ws.take 1024).length
  · rw [List.getD_eq_getElem _ _ hk]
    obtain ⟨i, hi⟩ := hws _ (List.mem_of_mem_take (List.getElem_mem hk))
    exact hi ▸ wordOpcode_encode_lt i
  · rw [List.getD_eq_default _ _ (Nat.le_of_not_lt hk)]
    decide

theorem FaultFree.hostCommand {s t : State} {c : HostCommand} {r : HostReply} (hs : FaultFree s)
    (h : s.hostCommand c = .accepted t r) : FaultFree t := by
  rcases hostCommand_cases h with rfl | ⟨text, ws, hws, rfl⟩ | rfl
  · exact hs
  · exact hs.placeWords fun _ => assembleText_encodes hws
  · exact ⟨hs.defined, rfl⟩

/-- Settles O15: from power-on, steps and host commands keep every slot's opcode defined, hence the flag clear. -/
theorem loadedTextNeverFaults : Obligations.LoadedTextNeverFaults := by
  intro s h
  have hfree : FaultFree s := by
    induction h with
    | powerOn p => exact .powerOn p
    | step _ hstep ih => exact ih.step hstep
    | host _ hcmd ih => exact ih.hostCommand hcmd
  exact hfree.no_fault

/-! Who writes the flags and the registers. -/

/-- Settles O17: the change is an effect, and only CMP has one on the zero flag. -/
theorem onlyCmpWritesZeroFlag : Obligations.OnlyCmpWritesZeroFlag := by
  intro s t h hne
  obtain ⟨i, u, n, hi, heffect, htu⟩ :=
    step_change_is_effect State.zf State.retire_zf (fun _ => rfl) (fun _ => rfl) h hne
  rcases heffect.zf_eq_or_cmp with hsame | ⟨ra, rb, rfl⟩
  · exact absurd (htu.trans hsame) hne
  · exact ⟨ra, rb, hi⟩

/-- Settles O20: the change is an effect, and only HALT has one on the run flag. -/
theorem onlyHaltWritesRunning : Obligations.OnlyHaltWritesRunning := by
  intro s t h hne
  obtain ⟨i, u, n, hi, heffect, htu⟩ :=
    step_change_is_effect State.running State.retire_running (fun _ => rfl) (fun _ => rfl) h hne
  rcases heffect.running_eq_or_halt with hsame | ⟨rfl, hclear⟩
  · exact absurd (htu.trans hsame) hne
  · exact ⟨hi, htu.trans hclear⟩

/-- Settles O21: the change is an effect, and one on a register is that of an instruction R31 lists. -/
theorem registersWrittenOnlyByListedInstrs : Obligations.RegistersWrittenOnlyByListedInstrs := by
  intro s t j h hne
  obtain ⟨i, u, n, hi, heffect, htu⟩ :=
    step_change_is_effect (State.readReg · j) (fun u n c => u.readReg_retire n c j) (fun _ => rfl) (fun _ => rfl) h hne
  rcases heffect.readReg_eq_or_dest j with hsame | hdest
  · exact absurd (htu.trans hsame) hne
  · exact ⟨i, hi, hdest⟩

/-! Who reads the zero flag. -/

@[simp] theorem State.setZf_setZf (s : State) (b b' : Bool) : (s.setZf b).setZf b' = s.setZf b' := rfl

theorem afterShift_setZf (n : Word) (s : State) (b : Bool) : afterShift n (s.setZf b) = (afterShift n s).setZf b := by
  unfold afterShift
  split
  · rfl
  · rw [State.setZf_params]
    cases s.params.shiftGe32 <;> rfl

/-- A meaning that does not look at the zero flag: from the state with another flag it answers the same next state with
that flag. -/
def IgnoresZf (m : State → Host.Outcome State Fault Refusal) : Prop :=
  ∀ (s t : State) (b : Bool), m s = .next t → m (s.setZf b) = .next (t.setZf b)

theorem ignoresZf_retire {u : State → State} (hu : ∀ s b, u (s.setZf b) = (u s).setZf b) (n : NextPc) (c : Status) :
    IgnoresZf fun s => .next ((u s).retire n c) := by
  intro s t b h
  cases h
  exact congrArg Host.Outcome.next ((congrArg (State.retire · n c) (hu s b)).trans (State.retire_setZf _ b n c))

theorem ignoresZf_skip (c : Status) : IgnoresZf fun s => .next (s.skip c) :=
  ignoresZf_retire (u := id) (fun _ _ => rfl) .seq c

theorem ignoresZf_moveTo (rd : Byte) (v : Word) : IgnoresZf (moveTo rd v) := by
  unfold moveTo
  cases regIndex? rd.toNat with
  | none => exact ignoresZf_skip _
  | some d => exact ignoresZf_retire (fun _ _ => rfl) _ _

theorem ignoresZf_execBinary (f : Word → Word → Word) (rd rs : Byte) : IgnoresZf (execBinary f rd rs) := by
  unfold execBinary
  cases regIndex? rd.toNat with
  | none => exact ignoresZf_skip _
  | some d =>
    cases regIndex? rs.toNat with
    | none => exact ignoresZf_skip _
    | some r => exact ignoresZf_retire (fun _ _ => rfl) _ _

theorem ignoresZf_execShift (f : Word → Nat → Word) (rd : Byte) (n : Word) : IgnoresZf (execShift f rd n) := by
  unfold execShift
  cases regIndex? rd.toNat with
  | none => exact ignoresZf_skip _
  | some d =>
    refine ignoresZf_retire (fun s b => ?_) _ _
    rw [afterShift_setZf]
    rfl

theorem ignoresZf_execNeg (rd : Byte) : IgnoresZf (execNeg rd) := by
  unfold execNeg
  cases regIndex? rd.toNat with
  | none => exact ignoresZf_skip _
  | some d => exact ignoresZf_retire (fun _ _ => rfl) _ _

theorem ignoresZf_execUdiv (rd rs : Byte) : IgnoresZf (execUdiv rd rs) := by
  unfold execUdiv
  cases regIndex? rd.toNat with
  | none => exact ignoresZf_skip _
  | some d =>
    cases regIndex? rs.toNat with
    | none => exact ignoresZf_skip _
    | some r =>
      intro s t b h
      by_cases hz : s.readReg r = 0
      · exact (if_pos hz).trans (ignoresZf_skip .divZero s t b ((if_pos hz).symm.trans h))
      · have hwrite := ignoresZf_retire (u := fun s => s.writeReg d (s.readReg d / s.readReg r)) (fun _ _ => rfl) .seq .ok
        exact (if_neg hz).trans (hwrite s t b ((if_neg hz).symm.trans h))

theorem ignoresZf_execLoad (rd : Byte) (addr : Word) : IgnoresZf (execLoad rd addr) := by
  unfold execLoad
  cases regIndex? rd.toNat with
  | none => exact ignoresZf_skip _
  | some d =>
    cases memAddress? addr with
    | none => exact ignoresZf_skip _
    | some a => exact ignoresZf_retire (fun _ _ => rfl) _ _

theorem ignoresZf_execStore (rs : Byte) (addr : Word) : IgnoresZf (execStore rs addr) := by
  unfold execStore
  cases regIndex? rs.toNat with
  | none => exact ignoresZf_skip _
  | some r =>
    cases memAddress? addr with
    | none => exact ignoresZf_skip _
    | some a => exact ignoresZf_retire (fun _ _ => rfl) _ _

theorem ignoresZf_execJmp (target : Word) : IgnoresZf (execJmp target) := by
  unfold execJmp
  cases jumpTarget? target with
  | none => exact ignoresZf_skip _
  | some a => exact ignoresZf_retire (u := id) (fun _ _ => rfl) _ _

theorem ignoresZf_execPrint (mode : Byte) (index : Word) : IgnoresZf (execPrint mode index) := by
  unfold execPrint
  by_cases hreg : mode = 0
  · simp only [if_pos hreg]
    cases regIndex? index.toNat with
    | none => exact ignoresZf_skip _
    | some r => exact ignoresZf_retire (fun _ _ => rfl) _ _
  · simp only [if_neg hreg]
    by_cases hmem : mode = 1
    · simp only [if_pos hmem]
      cases memAddress? index with
      | none => exact ignoresZf_skip _
      | some a => exact ignoresZf_retire (fun _ _ => rfl) _ _
    · simp only [if_neg hmem]
      exact ignoresZf_skip _

theorem ignoresZf_execTdrawPixel (xsel ysel ch : Byte) : IgnoresZf (execTdrawPixel xsel ysel ch) := by
  intro s t b h
  unfold execTdrawPixel at h ⊢
  rw [State.setZf_params]
  cases hx : pixelReg? s.params.pixelSel xsel with
  | none =>
    simp only [hx] at h
    exact ignoresZf_skip _ s t b h
  | some x =>
    cases hy : pixelReg? s.params.pixelSel ysel with
    | none =>
      simp only [hx, hy] at h
      exact ignoresZf_skip _ s t b h
    | some y =>
      simp only [hx, hy] at h
      exact ignoresZf_retire (u := fun s => s.emit (.pixel (s.readReg x) (s.readReg y) ch)) (fun _ _ => rfl) _ _ s t b h

/-- A CMP with an index out of range is skipped, and keeps the flag (R181). -/
theorem ignoresZf_execCmp_of_ge {ra rb : Byte} (h : ¬(ra.toNat < 8 ∧ rb.toNat < 8)) : IgnoresZf (execCmp ra rb) := by
  unfold execCmp
  by_cases ha : ra.toNat < 8
  · rw [regIndex?_of_lt ha, regIndex?_of_ge (Nat.le_of_not_lt fun hb => h ⟨ha, hb⟩)]
    exact ignoresZf_skip _
  · rw [regIndex?_of_ge (Nat.le_of_not_lt ha)]
    exact ignoresZf_skip _

/-- A CMP of two registers overwrites the flag without reading it. -/
theorem execCmp_setZf_of_lt {ra rb : Byte} (ha : ra.toNat < 8) (hb : rb.toNat < 8) (s : State) (b : Bool) :
    execCmp ra rb (s.setZf b) = execCmp ra rb s := by
  simp only [execCmp, regIndex?_of_lt ha, regIndex?_of_lt hb, State.readReg_setZf, State.setZf_setZf]

theorem ignoresZf_exec {i : Instr} (hje : ∀ target, i ≠ .je target)
    (hcmp : ∀ ra rb, i = .cmp ra rb → ¬(ra.toNat < 8 ∧ rb.toNat < 8)) : IgnoresZf (exec i) := by
  cases i with
  | je target => exact absurd rfl (hje target)
  | cmp ra rb => exact ignoresZf_execCmp_of_ge (hcmp ra rb rfl)
  | nop => exact ignoresZf_retire (u := id) (fun _ _ => rfl) .seq .ok
  | halt => exact ignoresZf_retire (u := (State.setRunning · false)) (fun _ _ => rfl) .stop .ok
  | tdrawClear => exact ignoresZf_retire (u := (State.emit · .clear)) (fun _ _ => rfl) .seq .ok
  | mov rd imm => exact ignoresZf_moveTo rd imm
  | movz rd imm => exact ignoresZf_moveTo rd (literal16 imm)
  | movn rd imm => exact ignoresZf_moveTo rd (~~~imm)
  | add rd rs | sub rd rs | and rd rs | orr rd rs | eor rd rs | mul rd rs => exact ignoresZf_execBinary _ rd rs
  | lsl rd n | lsr rd n => exact ignoresZf_execShift _ rd n
  | udiv rd rs => exact ignoresZf_execUdiv rd rs
  | neg rd => exact ignoresZf_execNeg rd
  | load rd addr => exact ignoresZf_execLoad rd addr
  | store rs addr => exact ignoresZf_execStore rs addr
  | jmp target => exact ignoresZf_execJmp target
  | print mode index => exact ignoresZf_execPrint mode index
  | tdrawPixel xsel ysel ch => exact ignoresZf_execTdrawPixel xsel ysel ch

/-- Settles O25: a CMP of two registers gives the very same next state, and every other instruction but JE the same one with
the flag it was given. -/
theorem onlyJeReadsZeroFlag : Obligations.OnlyJeReadsZeroFlag := by
  intro i s t b hje h
  by_cases hvalid : ∃ ra rb, i = .cmp ra rb ∧ ra.toNat < 8 ∧ rb.toNat < 8
  · obtain ⟨ra, rb, rfl, ha, hb⟩ := hvalid
    exact ⟨t, (execCmp_setZf_of_lt ha hb s b).trans h, rfl, fun _ _ _ _ _ => rfl⟩
  · have hignores := ignoresZf_exec hje fun ra rb hi hlt => hvalid ⟨ra, rb, hi, hlt⟩
    exact ⟨t.setZf b, hignores s t b h, rfl, fun ra rb hi ha hb => absurd ⟨ra, rb, hi, ha, hb⟩ hvalid⟩

/-! The end of the store, and the host's reads. -/

/-- Settles O10: at 1024 and above there is no fetch. -/
theorem endOfStoreHaltsBeforeFetch : Obligations.EndOfStoreHaltsBeforeFetch := by
  intro s he hpc
  simp only [step, he, State.fetch?_of_ge hpc, State.haltAtEnd]

theorem State.hostReadMem_of_lt {s : State} {a : Nat} (h : a < 1024) : s.hostReadMem a = .memByte (s.readMem a) := if_pos h

theorem State.hostReadMem_of_ge {s : State} {a : Nat} (h : 1024 ≤ a) : s.hostReadMem a = .invalidAddress :=
  if_neg (Nat.not_lt.mpr h)

/-- Settles O54: a read answers the state it was given. -/
theorem hostReadsChangeNothing : Obligations.HostReadsChangeNothing := by
  intro s he
  simp only [State.hostCommand_of_halted he, State.performHost]
  refine ⟨⟨s.regs.toList, rfl, by simp, fun i => by simp [State.readReg]⟩, fun a ha => ?_, fun a ha => ?_⟩
  · rw [State.hostReadMem_of_lt ha]
  · rw [State.hostReadMem_of_ge ha]

end Sys2Proof.Machine

/-! SUPPORT. The memory rules (20_memory.md): a word's little-endian bytes give it back, only STORE writes data memory, and a
LOAD after a STORE to the same address returns the byte stored. -/

namespace Sys2Proof

/-! The little-endian layout of a word (R64). -/

/-- A field put back at its own place holds the word's bits there and 0 elsewhere. -/
theorem getLsbD_extractLsb'_shiftLeft (w : InstrWord) {n len i : Nat} (hi : i < 64) :
    ((w.extractLsb' n len).setWidth 64 <<< n).getLsbD i = (decide (n ≤ i ∧ i < n + len) && w.getLsbD i) := by
  by_cases hn : n ≤ i
  · have hfield : i - n < len ↔ i < n + len := by omega
    have hplace : n + (i - n) = i := by omega
    simp [hi, hn, hfield, hplace]
  · simp [hn, Nat.lt_of_not_le hn]

/-- Each bit of a word lies in exactly one of its eight bytes. -/
theorem wordOfBytes_wordByte (w : InstrWord) :
    wordOfBytes (wordByte w 0) (wordByte w 1) (wordByte w 2) (wordByte w 3) (wordByte w 4) (wordByte w 5) (wordByte w 6)
      (wordByte w 7) = w := by
  apply BitVec.eq_of_getLsbD_eq
  intro i hi
  have hlow := getLsbD_extractLsb'_shiftLeft w (n := 0) (len := 8) hi
  rw [BitVec.shiftLeft_zero] at hlow
  simp only [wordOfBytes, wordByte, Nat.reduceMul, BitVec.getLsbD_or, hlow, getLsbD_extractLsb'_shiftLeft w hi]
  cases w.getLsbD i with
  | false => simp
  | true => simp; omega

theorem length_bytesOfWord (w : InstrWord) : (bytesOfWord w).length = 8 := rfl

theorem getElem_bytesOfWord (w : InstrWord) {k : Nat} (hk : k < (bytesOfWord w).length) :
    (bytesOfWord w)[k] = wordByte w k := by
  rw [length_bytesOfWord] at hk
  interval_cases k <;> rfl

/-- Decoding takes the eight bytes of a word off the list and leaves the others as the rest. -/
theorem decodeBytes_bytesOfWord_append (w : InstrWord) (rest : List Byte) :
    decodeBytes (bytesOfWord w ++ rest) = (decode w).map (·, rest) := by
  simp only [bytesOfWord, List.cons_append, List.nil_append, decodeBytes, wordOfBytes_wordByte]
  cases decode w <;> rfl

end Sys2Proof

namespace Sys2Proof.Machine

/-- Settles O6: the layout byte by byte, and the eight bytes put together again. -/
theorem wordBytesAreLittleEndian : Obligations.WordBytesAreLittleEndian := by
  intro w
  refine ⟨fun k hk => ⟨hk, getElem_bytesOfWord w hk⟩, fun rest => ?_⟩
  rw [decodeBytes_bytesOfWord_append]
  cases decode w <;> rfl

/-! Who writes data memory (R69, R171). -/

theorem EffectOf.readMem_eq_or_store {s u : State} {i : Instr} {n : NextPc} (h : EffectOf s i u n) (a : Nat) :
    u.readMem a = s.readMem a ∨
      ∃ (rs : Byte) (addr : Word) (c : Fin 1024), i = .store rs addr ∧ memAddress? addr = some c ∧ a = c := by
  cases h with
  | store rs addr c v hc =>
    by_cases hac : a = c
    · exact .inr ⟨rs, addr, c, rfl, hc, hac⟩
    · exact .inl (by simp [State.readMem_writeMem, hac])
  | reg d v hi hs => rcases hs with rfl | rfl <;> exact .inl rfl
  | cmp | jump | none | event | halt => exact .inl rfl

/-- Settles O18: the change is an effect, and one on a byte of data memory is that of a STORE to its address. -/
theorem onlyStoreWritesMemory : Obligations.OnlyStoreWritesMemory := by
  intro s t a h hne
  obtain ⟨i, u, n, hi, heffect, htu⟩ :=
    step_change_is_effect (State.readMem · a) (fun u n c => u.readMem_retire n c a) (fun _ => rfl) (fun _ => rfl) h hne
  rcases heffect.readMem_eq_or_store a with hsame | ⟨rs, addr, c, rfl, hc, hac⟩
  · exact absurd (htu.trans hsame) hne
  · exact ⟨rs, addr, c, hi, hc, hac⟩

/-! What STORE and LOAD do with valid operands (R170, R171). -/

theorem exec_store_of_valid {rs : Byte} {addr : Word} {r : Fin 8} {a : Fin 1024} (hr : rs.toNat = r)
    (ha : memAddress? addr = some a) (s : State) :
    exec (.store rs addr) s = .next ((s.writeMem a (lowByte (s.readReg r))).retire .seq .ok) := by
  simp only [exec, execStore, hr, regIndex?_fin, ha]

theorem exec_load_of_valid {rd : Byte} {addr : Word} {d : Fin 8} {a : Fin 1024} (hd : rd.toNat = d)
    (ha : memAddress? addr = some a) (s : State) :
    exec (.load rd addr) s = .next ((s.writeReg d (zeroExtendByte (s.readMem a))).retire .seq .ok) := by
  simp only [exec, execLoad, hd, regIndex?_fin, ha]

/-- The low byte of a register, zero-extended, is its value modulo 256. -/
theorem zeroExtendByte_lowByte (v : Word) : zeroExtendByte (lowByte v) = BitVec.ofNat 32 (v.toNat % 256) := by
  apply BitVec.eq_of_toNat_eq
  simp [zeroExtendByte, lowByte]

/-- Settles O41: the LOAD reads the byte the STORE wrote. -/
theorem loadReturnsLatestStore : Obligations.LoadReturnsLatestStore := by
  intro rs rd addr r d s hr hd haddr
  have ha := memAddress?_of_lt haddr
  refine ⟨_, _, exec_store_of_valid hr ha s, exec_load_of_valid hd ha _, ?_⟩
  calc
    _ = zeroExtendByte (lowByte (s.readReg r)) := by simp [State.readMem_writeMem]
    _ = BitVec.ofNat 32 ((s.readReg r).toNat % 256) := zeroExtendByte_lowByte _

end Sys2Proof.Machine

/-! SUPPORT. The encoding rules (30_encoding.md R80 to R90): decoding and encoding undo each other up to the bits that an opcode
does not use, and the reserved opcodes are no instructions. -/

namespace Sys2Proof

/-! The opcode map and the fields of a word. -/

/-- The operation found stands in a row with the value looked up. -/
theorem mem_of_findOpcode {b : Byte} {o : Opcode} {rows : List (Byte × Opcode)} (h : findOpcode b rows = some o) :
    (b, o) ∈ rows := by
  induction rows with
  | nil => cases h
  | cons row rows ih =>
    unfold findOpcode at h
    split at h
    next heq => cases heq; cases h; exact List.mem_cons_self
    next => exact List.mem_cons_of_mem _ (ih h)

theorem Opcode.ofByte_eq_some_iff (b : Byte) (o : Opcode) : Opcode.ofByte b = some o ↔ b = o.toByte := by
  have hvalues : ∀ row ∈ opcodeMap, row.1 = row.2.toByte := by decide
  exact ⟨fun h => hvalues _ (mem_of_findOpcode h), fun h => h ▸ ofByte_toByte o⟩

theorem Opcode.mem_opcodeMap (o : Opcode) : (o.toByte, o) ∈ opcodeMap := by
  cases o <;> decide

theorem decode_of_wordOpcode {w : InstrWord} {o : Opcode} (h : wordOpcode w = o.toByte) :
    decode w = .ok (buildInstr o (wordR1 w) (wordR2 w) (wordImm w)) := by
  simp only [decode, (Opcode.ofByte_eq_some_iff _ _).mpr h]

@[simp] theorem decode_packWord (o : Opcode) (r1 r2 : Byte) (imm : Word) :
    decode (packWord o.toByte r1 r2 imm) = .ok (buildInstr o r1 r2 imm) := by
  rw [decode_of_wordOpcode (wordOpcode_packWord _ _ _ _), wordR1_packWord, wordR2_packWord, wordImm_packWord]

@[simp] theorem opcode_buildInstr (o : Opcode) (r1 r2 : Byte) (imm : Word) : (buildInstr o r1 r2 imm).opcode = o := by
  cases o <;> rfl

/-- An instruction is its opcode with the fields of its own row. -/
@[simp] theorem buildInstr_fields (i : Instr) : buildInstr i.opcode i.fieldR1 i.fieldR2 i.fieldImm = i := by
  cases i with
  | tdrawPixel x y c => simp [Instr.opcode, Instr.fieldImm, buildInstr]
  | _ => rfl

/-- A bit of a packed word is a bit of the one field it falls in (R81). -/
theorem getLsbD_packWord (op r1 r2 : Byte) (imm : Word) {k : Nat} (hk : k < 64) :
    (packWord op r1 r2 imm).getLsbD k =
      if k < 8 then op.getLsbD k
      else if k < 16 then r1.getLsbD (k - 8)
      else if k < 24 then r2.getLsbD (k - 16)
      else if k < 32 then false
      else imm.getLsbD (k - 32) := by
  have hop (h : 8 ≤ k) : op.getLsbD k = false := BitVec.getLsbD_of_ge _ _ h
  have hr1 (h : 16 ≤ k) : r1.getLsbD (k - 8) = false := BitVec.getLsbD_of_ge _ _ (by omega)
  have hr2 (h : 24 ≤ k) : r2.getLsbD (k - 16) = false := BitVec.getLsbD_of_ge _ _ (by omega)
  simp only [packWord, BitVec.getLsbD_or, BitVec.getLsbD_shiftLeft, BitVec.getLsbD_setWidth]
  split_ifs with h8 h16 h24 h32
  · simp [show k < 16 by omega, show k < 32 by omega, h8, hk]
  · simp [hop (by omega), h8, h16, show k < 32 by omega, hk, show k - 8 < 64 by omega]
  · simp [hop (by omega), hr1 (by omega), h16, show k < 32 by omega, hk, show k - 16 < 64 by omega]
  · simp [hop (by omega), hr1 (by omega), hr2 (by omega), h32]
  · simp [hop (by omega), hr1 (by omega), hr2 (by omega), h32, hk, show k - 32 < 64 by omega]

/-- Masking a word field by field. -/
theorem and_packWord (w : InstrWord) (op r1 r2 : Byte) (imm : Word) :
    w &&& packWord op r1 r2 imm = packWord (wordOpcode w &&& op) (wordR1 w &&& r1) (wordR2 w &&& r2) (wordImm w &&& imm) := by
  apply BitVec.eq_of_getLsbD_eq
  intro k hk
  rw [BitVec.getLsbD_and, getLsbD_packWord _ _ _ _ hk, getLsbD_packWord _ _ _ _ hk]
  simp only [wordOpcode, wordR1, wordR2, wordImm, BitVec.getLsbD_and, BitVec.getLsbD_extractLsb']
  split_ifs with h8 h16 h24 h32
  · simp [h8]
  · rw [decide_eq_true (by omega : k - 8 < 8), Nat.add_sub_cancel' (by omega : 8 ≤ k), Bool.true_and]
  · rw [decide_eq_true (by omega : k - 16 < 8), Nat.add_sub_cancel' (by omega : 16 ≤ k), Bool.true_and]
  · exact Bool.and_false _
  · rw [decide_eq_true (by omega : k - 32 < 32), Nat.add_sub_cancel' (by omega : 32 ≤ k), Bool.true_and]

/-- The reserved byte of a packed word is 0 (R81, R95). -/
theorem reserved_packWord (op r1 r2 : Byte) (imm : Word) : (packWord op r1 r2 imm).extractLsb' 24 8 = 0 := by
  apply BitVec.eq_of_getLsbD_eq
  intro k hk
  rw [BitVec.getLsbD_extractLsb', getLsbD_packWord _ _ _ _ (by omega : 24 + k < 64), if_neg (by omega), if_neg (by omega),
    if_neg (by omega), if_pos (by omega)]
  simp

/-- The three fields of a pixel immediate, packed again, are the immediate with 0 in bits [31:24] (R85). -/
theorem packPixel_fields (imm : Word) : packPixel (immXsel imm) (immYsel imm) (immCh imm) = imm &&& 0x00FFFFFF := by
  have hlow : imm.toNat &&& (0x00FFFFFF : Word).toNat = imm.toNat % 2 ^ 24 := Nat.and_two_pow_sub_one_eq_mod imm.toNat 24
  have himm := imm.isLt
  apply BitVec.eq_of_toNat_eq
  simp only [packPixel_eq_ofNat, immXsel, immYsel, immCh, BitVec.extractLsb'_toNat, BitVec.toNat_and, BitVec.toNat_ofNat,
    Nat.shiftRight_eq_div_pow, hlow]
  omega

end Sys2Proof

namespace Sys2Proof.Machine

/-! Decode and encode. -/

/-- Settles O1: the fields of a packed word are those it was packed from, and they are the instruction's own. -/
theorem encodeThenDecodeGivesInstr : Obligations.EncodeThenDecodeGivesInstr := by
  intro i
  exact ⟨by rw [encode, decode_packWord, buildInstr_fields], reserved_packWord _ _ _ _⟩

theorem encode_injective : Function.Injective encode := by
  intro i j h
  have hdecode := congrArg decode h
  rw [(encodeThenDecodeGivesInstr i).1, (encodeThenDecodeGivesInstr j).1] at hdecode
  exact Except.ok.inj hdecode

/-- The encoding of an instruction built from a word's fields is the word under the opcode's mask. -/
theorem encode_buildInstr {w : InstrWord} {o : Opcode} (h : wordOpcode w = o.toByte) :
    encode (buildInstr o (wordR1 w) (wordR2 w) (wordImm w)) = w &&& usedMask o := by
  have hall8 (b : Byte) : b &&& 255 = b := BitVec.and_allOnes
  have hall32 (v : Word) : v &&& 4294967295 = v := BitVec.and_allOnes
  have hzero8 (b : Byte) : b &&& 0 = 0 := BitVec.and_zero
  have hzero32 (v : Word) : v &&& 0 = 0 := BitVec.and_zero
  cases o <;>
    simp only [usedMask, and_packWord, h, hall8, hall32, hzero8, hzero32, ← packPixel_fields, encode, buildInstr,
      Instr.opcode, Instr.fieldR1, Instr.fieldR2, Instr.fieldImm]

/-- Settles O2. -/
theorem decodeThenEncodeKeepsUsedBits : Obligations.DecodeThenEncodeKeepsUsedBits := by
  intro w i hi
  rcases decode_cases w with ⟨o, ho, hok⟩ | ⟨-, herr⟩
  · cases hi.symm.trans hok
    rw [opcode_buildInstr, encode_buildInstr ((Opcode.ofByte_eq_some_iff _ _).mp ho)]
  · cases hi.symm.trans herr

/-- Every opcode uses the whole opcode field. -/
theorem wordOpcode_and_usedMask (w : InstrWord) (o : Opcode) : wordOpcode (w &&& usedMask o) = wordOpcode w := by
  have hall8 (b : Byte) : b &&& 255 = b := BitVec.and_allOnes
  cases o <;> simp only [usedMask, and_packWord, wordOpcode_packWord, hall8]

/-- Settles O3: both words have the opcode `o`, so the two instructions have one encoding, hence are one. -/
theorem unusedFieldsAreIgnored : Obligations.UnusedFieldsAreIgnored := by
  intro w w' o ho hmask
  have hw : wordOpcode w = o.toByte := (Opcode.ofByte_eq_some_iff _ _).mp ho
  have hw' : wordOpcode w' = o.toByte := by
    rw [← wordOpcode_and_usedMask w' o, ← hmask, wordOpcode_and_usedMask, hw]
  rw [decode_of_wordOpcode hw, decode_of_wordOpcode hw']
  apply congrArg Except.ok
  apply encode_injective
  rw [encode_buildInstr hw, encode_buildInstr hw', hmask]

/-- Settles O4: decoding takes the one way or the other, and 22 and 23 tell them apart. -/
theorem reservedOpcodesAreNoInstructions : Obligations.ReservedOpcodesAreNoInstructions := by
  intro w
  change (23 ≤ (wordOpcode w).toNat → decode w = .error (.illegalOpcode (wordOpcode w))) ∧
    ((wordOpcode w).toNat < 23 → ∃ i, decode w = .ok i)
  rcases decode_cases w with ⟨o, ho, hok⟩ | ⟨hge, herr⟩
  · have hlt : ¬ 23 ≤ (wordOpcode w).toNat := by rw [← Opcode.ofByte_eq_none_iff, ho]; exact Option.some_ne_none o
    exact ⟨fun hge => absurd hge hlt, fun _ => ⟨_, hok⟩⟩
  · exact ⟨fun _ => herr, fun hlt => absurd hge (Nat.not_le.mpr hlt)⟩

/-- Settles O5: opcode 0 keeps no field, and the six words are evaluated. -/
theorem writtenOutWordsDecode : Obligations.WrittenOutWordsDecode := by
  refine ⟨fun w hw => decode_of_wordOpcode (o := .nop) hw, ?_⟩
  decide

end Sys2Proof.Machine

/-! SUPPORT. The assembler's rules (30_encoding.md R91 to R103): the fields of a line, the mnemonics and their argument counts,
decimal tokens, the word of each row, and the loader. -/

namespace Sys2Proof.Machine

/-! The fields of a line (R92, R93). -/

/-- The fields are the nonempty pieces between whitespace; the field begun is held in reading order. -/
theorem splitFields_eq_filter (cur line : List Byte) :
    splitFields cur line = (List.splitOnPPrepend isSpace line cur.reverse).filter (fun t => t ≠ []) := by
  induction line generalizing cur with
  | nil => by_cases hcur : cur = [] <;> simp [splitFields, List.splitOnPPrepend_nil, hcur]
  | cons c cs ih =>
    by_cases hc : isSpace c = true
    · rw [List.splitOnPPrepend_cons_pos hc, List.reverse_reverse, List.splitOnP_eq_splitOnPPrepend, splitFields, if_pos hc]
      by_cases hcur : cur = [] <;> simp [hcur, ih []]
    · rw [List.splitOnPPrepend_cons_neg (Bool.eq_false_of_not_eq_true hc), splitFields, if_neg hc, ih, List.reverse_append]
      rfl

theorem splitFields_of_whitespace {line : List Byte} (h : ∀ c ∈ line, isSpace c = true) : splitFields [] line = [] := by
  induction line with
  | nil => rfl
  | cons c cs ih =>
    rw [splitFields, if_pos (h c List.mem_cons_self), if_pos rfl]
    exact ih fun d hd => h d (List.mem_cons_of_mem c hd)

theorem lineFields_eq (p : Params) (line : List Byte) :
    lineFields p line =
      (((line.splitOnP isSpace).filter (fun t => t ≠ [])).take 4).map (fun t => t.take (tokenBound p)) := by
  rw [lineFields, splitFields_eq_filter, List.splitOnP_eq_splitOnPPrepend]
  rfl

theorem assembleLine_of_whitespace (p : Params) {line : List Byte} (h : ∀ c ∈ line, isSpace c = true) :
    assembleLine p line = .fails := by
  rw [assembleLine, lineFields, splitFields_of_whitespace h]
  rfl

/-! Mnemonics and argument counts (R94, R95). -/

theorem eq_mnemonicText_of_findMnemonic {t : List Byte} {o : Opcode} {rows : List (Byte × Opcode)}
    (h : findMnemonic t rows = some o) : t = mnemonicText o := by
  induction rows with
  | nil => cases h
  | cons row rows ih =>
    unfold findMnemonic at h
    split at h
    next heq => cases h; exact heq
    next => exact ih h

@[simp] theorem mnemonicOf_mnemonicText (o : Opcode) : mnemonicOf (mnemonicText o) = some o := by
  cases o <;> decide

theorem mnemonicOf_eq_some_iff (t : List Byte) (o : Opcode) : mnemonicOf t = some o ↔ t = mnemonicText o :=
  ⟨eq_mnemonicText_of_findMnemonic, fun h => h ▸ mnemonicOf_mnemonicText o⟩

@[simp] theorem assembleFields_mnemonicText (p : Params) (o : Opcode) (args : List (List Byte)) :
    assembleFields p (mnemonicText o :: args) = assembleArgs p o args := by
  simp only [assembleFields, mnemonicOf_mnemonicText]

theorem assembleFields_of_no_mnemonic (p : Params) {m : List Byte} (h : mnemonicOf m = none) (args : List (List Byte)) :
    assembleFields p (m :: args) = .fails := by
  simp only [assembleFields, h]

theorem assembleArgs_of_length_ne (p : Params) {o : Opcode} {args : List (List Byte)}
    (h : args.length ≠ (argShape o).count) : assembleArgs p o args = .fails := by
  unfold assembleArgs
  split
  case h_8 => rfl
  all_goals
    next hshape => exact absurd (by rw [hshape]; rfl) h

/-- The rows of R95 as the assembler's tables give them: spelling, opcode, argument count. -/
def mnemonicRows : List (List Byte × Opcode × Nat) :=
  opcodeMap.map fun row => (mnemonicText row.2, row.2, (argShape row.2).count)

theorem mem_mnemonicRows_iff {m : List Byte} {o : Opcode} {n : Nat} :
    (m, o, n) ∈ mnemonicRows ↔ m = mnemonicText o ∧ n = (argShape o).count := by
  constructor
  · intro h
    obtain ⟨row, -, hrow⟩ := List.mem_map.mp h
    cases hrow
    exact ⟨rfl, rfl⟩
  · rintro ⟨rfl, rfl⟩
    exact List.mem_map.mpr ⟨_, o.mem_opcodeMap, rfl⟩

/-- Settles O57: the rows written out in the statement are those of the assembler's tables. -/
theorem mnemonicAndArgumentCountMustMatch : Obligations.MnemonicAndArgumentCountMustMatch := by
  unfold Obligations.MnemonicAndArgumentCountMustMatch
  intro space rows
  have hspace : space = isSpace := rfl
  have hrows : rows = mnemonicRows := rfl
  rw [hspace, hrows]
  refine ⟨fun p line => ⟨lineFields_eq p line, rfl, assembleLine_of_whitespace p⟩, ?_, ?_,
    fun p m args hm => assembleFields_of_no_mnemonic p hm args, ?_⟩
  · intro p n hn
    simp only [tokenBound, hn]
  · intro m o
    simp only [mnemonicOf_eq_some_iff, mem_mnemonicRows_iff, exists_and_left, exists_eq, and_true]
  · rintro ⟨m, o, n⟩ hrow p args hlength
    obtain ⟨rfl, rfl⟩ := mem_mnemonicRows_iff.mp hrow
    rw [assembleFields_mnemonicText, assembleArgs_of_length_ne p hlength]

/-! Decimal tokens (R97). -/

/-- The character of a decimal digit. -/
def digitChar (d : Fin 10) : Byte := BitVec.ofNat 8 (0x30 + d.val)

theorem digit?_digitChar (d : Fin 10) : digit? (digitChar d) = some d.val := by
  revert d; decide

theorem digitChar_ne_sign (d : Fin 10) : digitChar d ≠ 0x2B ∧ digitChar d ≠ 0x2D := by
  revert d; decide

/-- The numeral of a run of digits, after the value of those before. -/
theorem leadingNumeral_digits {rest : List Byte} (hrest : ∀ c cs, rest = c :: cs → ¬ (0x30 ≤ c.toNat ∧ c.toNat ≤ 0x39))
    (ds : List (Fin 10)) (acc : Nat) :
    leadingNumeral acc (ds.map digitChar ++ rest) = ds.foldl (fun a d => a * 10 + d.val) acc := by
  induction ds generalizing acc with
  | nil =>
    cases rest with
    | nil => rfl
    | cons c cs => simp only [List.map_nil, List.nil_append, leadingNumeral, digit?, if_neg (hrest c cs rfl), List.foldl_nil]
  | cons d ds ih => simp only [List.map_cons, List.cons_append, leadingNumeral, digit?_digitChar, ih, List.foldl_cons]

theorem decimalMagnitude_of_no_sign {t : List Byte} (h : ∀ c cs, t = c :: cs → c ≠ 0x2B ∧ c ≠ 0x2D) :
    decimalMagnitude t = leadingNumeral 0 t := by
  cases t with
  | nil => rfl
  | cons c cs => exact if_neg (not_or.mpr (h c cs rfl))

theorem decimalNegative_of_no_sign {t : List Byte} (h : ∀ c cs, t = c :: cs → c ≠ 0x2B ∧ c ≠ 0x2D) :
    decimalNegative t = false := by
  cases t with
  | nil => rfl
  | cons c cs => exact decide_eq_false (h c cs rfl).2

/-- Outside the range IMM_OVERFLOW decides (D27). -/
theorem decimalToken_of_out_of_range (p : Params) {t : List Byte} (h : decimalInRange t = false) :
    (p.immOverflow = .refuse → decimalToken p t = none) ∧ (p.immOverflow = .free → ∃ v, decimalToken p t = some v) := by
  simp only [decimalToken, h]
  exact ⟨fun hp => by simp [hp], fun hp => by simp [hp]⟩

theorem decimalToken_of_nonnegative (p : Params) {t : List Byte} {n : Nat} (hneg : decimalNegative t = false)
    (hn : decimalMagnitude t = n) :
    (n < 2 ^ 32 → decimalToken p t = some (BitVec.ofNat 32 n)) ∧
    (2 ^ 32 ≤ n → p.immOverflow = .refuse → decimalToken p t = none) ∧
    (2 ^ 32 ≤ n → p.immOverflow = .free → ∃ v, decimalToken p t = some v) := by
  have hrange : decimalInRange t = decide (n < 2 ^ 32) := by simp [decimalInRange, hneg, hn]
  have hout (h : 2 ^ 32 ≤ n) := decimalToken_of_out_of_range p (hrange.trans (decide_eq_false (Nat.not_lt.mpr h)))
  refine ⟨fun h => ?_, fun h => (hout h).1, fun h => (hout h).2⟩
  rw [decimalToken, if_pos (hrange.trans (decide_eq_true h)), hneg, hn, if_neg Bool.false_ne_true]

theorem decimalToken_of_negative (p : Params) {t : List Byte} {n : Nat} (hneg : decimalNegative t = true)
    (hn : decimalMagnitude t = n) :
    (n ≤ 2 ^ 31 → decimalToken p t = some (BitVec.ofInt 32 (-(n : Int)))) ∧
    (2 ^ 31 < n → p.immOverflow = .refuse → decimalToken p t = none) ∧
    (2 ^ 31 < n → p.immOverflow = .free → ∃ v, decimalToken p t = some v) := by
  have hrange : decimalInRange t = decide (n ≤ 2 ^ 31) := by simp [decimalInRange, hneg, hn]
  have hout (h : 2 ^ 31 < n) := decimalToken_of_out_of_range p (hrange.trans (decide_eq_false (Nat.not_le.mpr h)))
  refine ⟨fun h => ?_, fun h => (hout h).1, fun h => (hout h).2⟩
  rw [decimalToken, if_pos (hrange.trans (decide_eq_true h)), hneg, hn, if_pos rfl, BitVec.ofInt_neg, BitVec.ofInt_natCast]

/-- Settles O58: a token's numeral is that of its digits, whichever sign stands before them. -/
theorem decimalTokensReadNumerals : Obligations.DecimalTokensReadNumerals := by
  intro p ds rest hrest digits n
  have hnumeral : leadingNumeral 0 (digits ++ rest) = n := leadingNumeral_digits hrest ds 0
  refine ⟨fun t ht => ?_, decimalToken_of_negative p rfl hnumeral⟩
  rcases ht with rfl | ⟨rfl, hempty⟩
  · exact decimalToken_of_nonnegative p rfl hnumeral
  · have hsign : ∀ c cs, digits ++ rest = c :: cs → c ≠ 0x2B ∧ c ≠ 0x2D := by
      cases ds with
      | nil => exact hempty rfl
      | cons d ds => intro c cs h; cases h; exact digitChar_ne_sign d
    exact decimalToken_of_nonnegative p (decimalNegative_of_no_sign hsign)
      ((decimalMagnitude_of_no_sign hsign).trans hnumeral)

/-! The word of each row (R95, R98, R99). -/

/-- Settles O59: the index is a difference of 8-bit codes; the two lines are evaluated. -/
theorem workedLinesAssemble : Obligations.WorkedLinesAssemble := by
  refine ⟨fun c d rest => ?_, fun _ => rfl, by decide, by decide⟩
  calc registerToken (c :: d :: rest)
    _ = d - 0x30 := rfl
    _ = BitVec.ofInt 8 ((d.toNat : Int) - 0x30) := by simp [Int.sub_eq_add_neg, BitVec.ofInt_add, BitVec.sub_eq_add_neg]

/-- The word of an instruction is its row's opcode value with the fields, once they are the instruction's own. -/
theorem assemblesTo_mnemonicText {p : Params} {o : Opcode} {args : List (List Byte)} {i : Instr} {r1 r2 : Byte}
    {imm : Word} (hargs : assembleArgs p o args = .instr i) (hword : encode i = packWord o.toByte r1 r2 imm) :
    AssemblesTo p (mnemonicText o :: args) o.toByte.toNat r1 r2 imm :=
  ⟨i, (assembleFields_mnemonicText p o args).trans hargs, hword.trans (packWord_eq_ofNat _ _ _ _)⟩

theorem withDecimal_of_some {p : Params} {t : List Byte} {v : Word} (h : decimalToken p t = some v) (f : Word → Instr) :
    withDecimal p t f = .instr (f v) := by
  simp only [withDecimal, h]

theorem withDecimal_of_none {p : Params} {t : List Byte} (h : decimalToken p t = none) (f : Word → Instr) :
    withDecimal p t f = .refused .immOverflow := by
  simp only [withDecimal, h]

/-- The rows of R95 of one operand form, each with its opcode value. -/
def shapeRows (sh : ArgShape) : List (List Byte × Nat) :=
  (opcodeMap.filter fun row => argShape row.2 = sh).map fun row => (mnemonicText row.2, row.2.toByte.toNat)

theorem forall_shapeRows {sh : ArgShape} {P : List Byte × Nat → Prop}
    (h : ∀ o, argShape o = sh → P (mnemonicText o, o.toByte.toNat)) : ∀ row ∈ shapeRows sh, P row := by
  intro row hrow
  obtain ⟨⟨b, o⟩, ho, rfl⟩ := List.mem_map.mp hrow
  exact h o (of_decide_eq_true (List.mem_filter.mp ho).2)

/-- A row with a decimal operand has the word of its value, and refuses the line where it has none (log 12). -/
theorem assembles_of_withDecimal {p : Params} {o : Opcode} {args : List (List Byte)} {n : List Byte} {f : Word → Instr}
    {r1 r2 : Byte} (hargs : assembleArgs p o args = withDecimal p n f)
    (hword : ∀ v, encode (f v) = packWord o.toByte r1 r2 v) :
    (∀ v, decimalToken p n = some v → AssemblesTo p (mnemonicText o :: args) o.toByte.toNat r1 r2 v) ∧
    (decimalToken p n = none → assembleFields p (mnemonicText o :: args) = .refused .immOverflow) := by
  rw [assembleFields_mnemonicText, hargs]
  exact ⟨fun v hv => assemblesTo_mnemonicText (hargs.trans (withDecimal_of_some hv f)) (hword v),
    fun hnone => withDecimal_of_none hnone f⟩

section
variable (p : Params) {o : Opcode} (r q n : List Byte)

theorem assemblesTo_of_noArgs (ho : argShape o = .noArgs) : AssemblesTo p [mnemonicText o] o.toByte.toNat 0 0 0 :=
  assemblesTo_mnemonicText (i := buildInstr o 0 0 0) (by simp only [assembleArgs, ho])
    (by cases o <;> cases ho <;> rfl)

theorem assemblesTo_neg : AssemblesTo p [mnemonicText .neg, r] 17 (registerToken r) 0 0 :=
  assemblesTo_mnemonicText (o := .neg) (i := .neg (registerToken r)) rfl rfl

theorem assemblesTo_of_regReg (ho : argShape o = .regReg) :
    AssemblesTo p [mnemonicText o, r, q] o.toByte.toNat (registerToken r) (registerToken q) 0 :=
  assemblesTo_mnemonicText (i := buildInstr o (registerToken r) (registerToken q) 0) (by simp only [assembleArgs, ho])
    (by cases o <;> cases ho <;> rfl)

theorem assembles_of_regDec (ho : argShape o = .regDec) :
    (∀ v, decimalToken p n = some v → AssemblesTo p [mnemonicText o, r, n] o.toByte.toNat (registerToken r) 0 v) ∧
    (decimalToken p n = none → assembleFields p [mnemonicText o, r, n] = .refused .immOverflow) :=
  assembles_of_withDecimal (f := buildInstr o (registerToken r) 0) (by simp only [assembleArgs, ho])
    fun v => by cases o <;> cases ho <;> rfl

theorem assembles_of_dec (ho : argShape o = .dec) :
    (∀ v, decimalToken p n = some v → AssemblesTo p [mnemonicText o, n] o.toByte.toNat 0 0 v) ∧
    (decimalToken p n = none → assembleFields p [mnemonicText o, n] = .refused .immOverflow) :=
  assembles_of_withDecimal (f := buildInstr o 0 0) (by simp only [assembleArgs, ho])
    fun v => by cases o <;> cases ho <;> rfl

theorem assembles_print {k : List Byte} {mode : Byte} (hk : printMode k = some mode) :
    (∀ v, decimalToken p n = some v → AssemblesTo p [mnemonicText .print, k, n] 20 mode 0 v) ∧
    (decimalToken p n = none → assembleFields p [mnemonicText .print, k, n] = .refused .immOverflow) :=
  assembles_of_withDecimal (o := .print) (f := buildInstr .print mode 0) (by simp only [assembleArgs, argShape, hk])
    fun _ => rfl

theorem assembleFields_print_of_other_keyword (h0 : r ≠ ascii ['R', 'E', 'G']) (h1 : r ≠ ascii ['M', 'E', 'M']) :
    assembleFields p [mnemonicText .print, r, n] = .fails := by
  rw [assembleFields_mnemonicText]
  simp only [assembleArgs, argShape, printMode, if_neg h0, if_neg h1]

theorem assemblesTo_tdrawPixel (ch : Byte) (rest : List Byte) :
    AssemblesTo p [mnemonicText .tdrawPixel, r, q, ch :: rest] 22 0 0
      (BitVec.ofNat 32 ((registerToken r).toNat + (registerToken q).toNat * 2 ^ 8 + ch.toNat * 2 ^ 16)) := by
  rw [← packPixel_eq_ofNat]
  exact assemblesTo_mnemonicText (o := .tdrawPixel) (i := .tdrawPixel (registerToken r) (registerToken q) ch)
    (congrArg AsmResult.instr (buildInstr_fields (.tdrawPixel _ _ _))) rfl

end

/-- Settles O60: the rows written out in the statement are the rows of R95 of each operand form. -/
theorem tableRowsAssembleToTheirWords : Obligations.TableRowsAssembleToTheirWords := by
  intro p r q n ch rest
  refine ⟨?noArgs, ?regReg, assemblesTo_neg p r, ?regDec, ?dec, ?print,
    assembleFields_print_of_other_keyword p r n, assemblesTo_tdrawPixel p r q ch rest⟩
  case noArgs => exact forall_shapeRows (sh := .noArgs) fun o ho => assemblesTo_of_noArgs p ho
  case regReg => exact forall_shapeRows (sh := .regReg) fun o ho => assemblesTo_of_regReg p r q ho
  case regDec => exact forall_shapeRows (sh := .regDec) fun o ho => assembles_of_regDec p r n ho
  case dec => exact forall_shapeRows (sh := .dec) fun o ho => assembles_of_dec p n ho
  case print =>
    have hmodes : ∀ key ∈ [(ascii ['R', 'E', 'G'], 0), (ascii ['M', 'E', 'M'], 1)], printMode key.1 = some key.2 := by
      decide
    exact fun key hkey => assembles_print p n (hmodes key hkey)

/-! The loader (R101, R102). -/

/-- The instruction of a line that assembles. -/
def AsmResult.instr? : AsmResult → Option Instr
  | .instr i => some i
  | .fails => none
  | .refused _ => none

/-- With any room left, a line that assembles takes one slot and a line that fails none. -/
theorem assembleLines_eq_take (p : Params) (room : Nat) (lines : List (List Byte))
    (h : ∀ l ∈ lines, ∀ why, assembleLine p l ≠ .refused why) :
    assembleLines p room lines = some ((lines.filterMap fun l => (assembleLine p l).instr?).take room) := by
  induction lines generalizing room with
  | nil => simp [assembleLines]
  | cons l lines ih =>
    have ih := fun room => ih room fun m hm => h m (List.mem_cons_of_mem l hm)
    cases room with
    | zero => rfl
    | succ room =>
      cases hl : assembleLine p l with
      | instr i => simp [assembleLines, hl, AsmResult.instr?, ih]
      | fails => simp [assembleLines, hl, AsmResult.instr?, ih]
      | refused why => exact absurd hl (h l List.mem_cons_self why)

/-- Settles O56, by induction on the lines for every room. -/
theorem loaderKeepsAssembledLinesInOrder : Obligations.LoaderKeepsAssembledLinesInOrder :=
  fun p lines h => assembleLines_eq_take p 1024 lines h

end Sys2Proof.Machine

/-! SUPPORT. The step rules (40_step.md R120 to R131): what a step runs, where the pc goes, that a failed guard has no effect and
which one is reported, and that the output trace is never read. -/

namespace Sys2Proof.Machine

/-! What a step runs (R120 to R123). -/

/-- Settles O9. -/
theorem haltedCoreChangesNothing : Obligations.HaltedCoreChangesNothing := by
  intro s he
  simp only [step, he]

/-- Settles O7: inside the store there is a word to fetch. -/
theorem stepRunsDecodedInstr : Obligations.StepRunsDecodedInstr := by
  intro s i he hpc hdecode
  simp only [step, he, State.fetch?_of_lt hpc, hdecode]

theorem step_of_decode_error {s : State} {e : DecodeError} (he : s.engine = .running) (hpc : s.pc.toNat < 1024)
    (hdecode : decode (s.readSlot s.pc.toNat) = .error e) : step s = .next s.raiseIllegalOpcode := by
  simp only [step, he, State.fetch?_of_lt hpc, hdecode]

/-- Apart from the fault flag, the IllegalOpcode fault has no effect of its own (R123). -/
theorem changesOnly_raiseIllegalOpcode (s : State) : ChangesOnly {} s (s.raiseIllegalOpcode.setFault s.fault) where
  regs _ _ := rfl
  mem _ _ := rfl
  slots _ := rfl
  zf _ := rfl
  running _ := rfl
  fault := rfl
  events := (List.append_nil _).symm
  params := rfl
  draws _ := rfl

/-- Settles O8: the decoder refuses the word, and the step raises the fault. -/
theorem illegalOpcodeHaltsEngine : Obligations.IllegalOpcodeHaltsEngine := by
  intro s he hpc hopcode
  have hdecode := (reservedOpcodesAreNoInstructions _).1 hopcode
  exact ⟨_, step_of_decode_error he hpc hdecode, rfl, rfl, rfl, rfl, changesOnly_raiseIllegalOpcode s⟩

/-! Where the pc goes (R126). -/

/-- The next pc of an effect: the successor, the checked target of a taken jump, or for HALT the pc as it was. -/
theorem EffectOf.next_pc_cases {s u : State} {i : Instr} {n : NextPc} (h : EffectOf s i u n) :
    (u.advance n).pc = s.pc + 1 ∨
    (∃ target, (i = .jmp target ∨ (i = .je target ∧ s.zf = true)) ∧ target.toNat < 1024 ∧ (u.advance n).pc = target) ∨
    ((u.advance n).pc = s.pc ∧ u.running = false) := by
  cases h with
  | jump target hi ht => exact .inr (.inl ⟨target, hi, ht, rfl⟩)
  | halt => exact .inr (.inr ⟨rfl, rfl⟩)
  | reg d v hi hs => rcases hs with rfl | rfl <;> exact .inl rfl
  | store | cmp | none | event => exact .inl rfl

/-- Settles O23: a skipped instruction goes on to the next slot, an executed one where its effect says; the two steps that
execute none halt the engine where it stands. -/
theorem pcMovesToSuccessorOrTarget : Obligations.PcMovesToSuccessorOrTarget := by
  intro s t he h
  rcases step_cases s with ⟨hhalted, -⟩ | ⟨-, -, hend⟩ | ⟨i, hi, -, hexec⟩ | ⟨-, -, -, hfault⟩
  · cases he.symm.trans hhalted
  · cases h.symm.trans hend
    exact .inr (.inr ⟨rfl, rfl⟩)
  · rcases exec_next_cases (hexec.symm.trans h) with ⟨c, rfl⟩ | ⟨u, n, heffect, rfl⟩
    · exact .inl ⟨i, hi, by simp [State.skip]⟩
    · simp only [State.retire_pc]
      rcases heffect.next_pc_cases with hseq | ⟨target, hjump, hlt, hpc⟩ | ⟨hpc, hstop⟩
      · exact .inl ⟨i, hi, hseq⟩
      · refine .inr (.inl ⟨target, hjump.imp ?_ ?_, hlt, hpc⟩)
        · rintro rfl
          exact hi
        · rintro ⟨rfl, hz⟩
          exact ⟨hi, hz⟩
      · exact .inr (.inr ⟨hpc, by simp [State.retire_engine, hstop]⟩)
  · cases h.symm.trans hfault
    exact .inr (.inr ⟨rfl, rfl⟩)

/-! A failed guard (R125). -/

/-- Settles O26: an instruction that has an effect reports OK, so this one was skipped. -/
theorem failedGuardHasNoEffect : Obligations.FailedGuardHasNoEffect := by
  intro i s t c h hstatus hc
  rcases exec_next_cases h with ⟨c', rfl⟩ | ⟨u, n, -, rfl⟩
  · cases hstatus
    exact ⟨(ChangesOnly.none s).retire .seq c, endsSeq_retire rfl rfl c⟩
  · cases hstatus
    exact absurd rfl hc

/-! The guards that fail, read from the operand forms. -/

theorem regIndex?_eq_none {n : Nat} (h : regIndex? n = none) : 8 ≤ n := by
  by_contra hlt
  cases h.symm.trans (regIndex?_of_lt (Nat.lt_of_not_le hlt))

theorem memAddress?_eq_none {imm : Word} (h : memAddress? imm = none) : 1024 ≤ imm.toNat := by
  by_contra hlt
  cases h.symm.trans (memAddress?_of_lt (Nat.lt_of_not_le hlt))

theorem jumpTarget?_eq_none {imm : Word} (h : jumpTarget? imm = none) : 1024 ≤ imm.toNat := by
  by_contra hlt
  cases h.symm.trans (jumpTarget?_of_lt (Nat.lt_of_not_le hlt))

theorem regIndex?_lt {n : Nat} {d : Fin 8} (h : regIndex? n = some d) : n < 8 := regIndex?_eq_some h ▸ d.isLt

theorem memAddress?_lt {imm : Word} {a : Fin 1024} (h : memAddress? imm = some a) : imm.toNat < 1024 :=
  memAddress?_eq_some h ▸ a.isLt

/-! The status due (R129), by the guard that decides it. -/

section
variable {s : State} {i : Instr}

/-- The guards of R129 that come before the divisor all pass. -/
structure OperandsPass (s : State) (i : Instr) : Prop where
  mode : i.modeOk = true
  indices : ∀ n ∈ checkedIndices s.params.pixelSel i, n < 8
  address : ∀ a, i.dataAddress = some a → a < 1024
  target : ∀ t, i.jumpTarget = some t → t < 1024

theorem statusDue_modeInvalid (hmode : i.modeOk = false) : StatusDue s i .modeInvalid := by
  rw [StatusDue, if_pos hmode]

theorem statusDue_regRange {n : Nat} (hmode : i.modeOk = true) (hn : n ∈ checkedIndices s.params.pixelSel i)
    (hge : 8 ≤ n) : StatusDue s i .regRange := by
  rw [StatusDue, if_neg (by simp [hmode]), if_pos ⟨n, hn, hge⟩]

theorem statusDue_memRange {a : Nat} (hmode : i.modeOk = true)
    (hindices : ∀ n ∈ checkedIndices s.params.pixelSel i, n < 8) (ha : i.dataAddress = some a) (hge : 1024 ≤ a) :
    StatusDue s i .memRange := by
  rw [StatusDue, if_neg (by simp [hmode]), if_neg (by simpa using hindices), if_pos ⟨a, ha, hge⟩]

theorem statusDue_targetRange {t : Nat} (hmode : i.modeOk = true)
    (hindices : ∀ n ∈ checkedIndices s.params.pixelSel i, n < 8) (haddress : i.dataAddress = none)
    (ht : i.jumpTarget = some t) (hge : 1024 ≤ t) : StatusDue s i .targetRange := by
  rw [StatusDue, if_neg (by simp [hmode]), if_neg (by simpa using hindices), if_neg (by simp [haddress]),
    if_pos ⟨t, ht, hge⟩]

/-- With every operand in range, only the divisor is left to fail. -/
theorem OperandsPass.statusDue_iff (h : OperandsPass s i) (c : Status) :
    StatusDue s i c ↔ (divisorZero s i → c = .divZero) ∧ (¬ divisorZero s i → c = .ok) := by
  rw [StatusDue, if_neg (by simp [h.mode]), if_neg (by simpa using h.indices), if_neg (by simpa using h.address),
    if_neg (by simpa using h.target)]

theorem OperandsPass.statusDue_divZero (h : OperandsPass s i) (hzero : divisorZero s i) : StatusDue s i .divZero :=
  (h.statusDue_iff _).mpr ⟨fun _ => rfl, fun hne => absurd hzero hne⟩

theorem OperandsPass.statusDue_ok (h : OperandsPass s i) (hne : ¬ divisorZero s i) : StatusDue s i .ok :=
  (h.statusDue_iff _).mpr ⟨fun hzero => absurd hzero hne, fun _ => rfl⟩

end

/-! How an instruction answers, whatever the output trace so far. -/

@[simp] theorem State.writeReg_withEvents (s : State) (es : List Event) (d : Fin 8) (v : Word) :
    (s.withEvents es).writeReg d v = (s.writeReg d v).withEvents es := rfl
@[simp] theorem State.writeMem_withEvents (s : State) (es : List Event) (a : Nat) (v : Byte) :
    (s.withEvents es).writeMem a v = (s.writeMem a v).withEvents es := rfl
@[simp] theorem State.setZf_withEvents (s : State) (es : List Event) (b : Bool) :
    (s.withEvents es).setZf b = (s.setZf b).withEvents es := rfl
@[simp] theorem State.emit_withEvents (s : State) (es : List Event) (e : Event) :
    (s.withEvents es).emit e = s.withEvents (es ++ [e]) := rfl

theorem afterShift_withEvents (n : Word) (s : State) (es : List Event) :
    afterShift n (s.withEvents es) = (afterShift n s).withEvents es := by
  unfold afterShift
  split
  · rfl
  · rw [State.withEvents_params]
    cases s.params.shiftGe32 <;> rfl

theorem shiftResult_withEvents (f : Word → Nat → Word) (v n : Word) (s : State) (es : List Event) :
    shiftResult f v n (s.withEvents es) = shiftResult f v n s := rfl

/-- From `s` with any output trace so far, instruction `i` reports `c`, appends the same events to the trace and does the
same to everything else. -/
def Reports (c : Status) (i : Instr) (s : State) : Prop :=
  ∃ (u : State) (n : NextPc) (new : List Event),
    ∀ es, exec i (s.withEvents es) = .next ((u.withEvents (es ++ new)).retire n c)

section
variable {s : State} {i : Instr} {c : Status}

theorem reports_of_no_event {u : State} {n : NextPc}
    (h : ∀ es, exec i (s.withEvents es) = .next ((u.withEvents es).retire n c)) : Reports c i s :=
  ⟨u, n, [], fun es => by rw [List.append_nil, h es]⟩

theorem reports_of_skip (h : ∀ es, exec i (s.withEvents es) = .next ((s.withEvents es).skip c)) : Reports c i s :=
  reports_of_no_event h

theorem reports_of_emit {e : Event}
    (h : ∀ es, exec i (s.withEvents es) = .next ((s.withEvents (es ++ [e])).retire .seq c)) : Reports c i s :=
  ⟨s, .seq, [e], h⟩

end

/-- The instruction reports the status due. -/
def ReportsDue (i : Instr) (s : State) : Prop := ∃ c, StatusDue s i c ∧ Reports c i s

/-- No guard but that of the register indices applies to the instruction. -/
structure RegistersOnly (i : Instr) : Prop where
  mode : i.modeOk = true
  address : i.dataAddress = none
  target : i.jumpTarget = none
  divisor : ∀ s, ¬ divisorZero s i

section
variable {s : State} {i : Instr}

theorem RegistersOnly.statusDue_ok (h : RegistersOnly i) (hindices : ∀ n ∈ checkedIndices s.params.pixelSel i, n < 8) :
    StatusDue s i .ok :=
  OperandsPass.statusDue_ok ⟨h.mode, hindices, by simp [h.address], by simp [h.target]⟩ (h.divisor s)

/-- An instruction without guards. -/
theorem reportsDue_of_no_index (hi : RegistersOnly i) (hidx : checkedIndices s.params.pixelSel i = [])
    (hok : Reports .ok i s) : ReportsDue i s :=
  ⟨.ok, hi.statusDue_ok (by simp [hidx]), hok⟩

theorem reportsDue_of_one_index {n : Nat} (hi : RegistersOnly i) (hidx : checkedIndices s.params.pixelSel i = [n])
    (hskip : regIndex? n = none → Reports .regRange i s) (hok : ∀ d, regIndex? n = some d → Reports .ok i s) :
    ReportsDue i s := by
  cases hn : regIndex? n with
  | none => exact ⟨.regRange, statusDue_regRange hi.mode (by simp [hidx]) (regIndex?_eq_none hn), hskip hn⟩
  | some d => exact ⟨.ok, hi.statusDue_ok (by simpa [hidx] using regIndex?_lt hn), hok d hn⟩

theorem reportsDue_of_two_indices {n m : Nat} (hi : RegistersOnly i)
    (hidx : checkedIndices s.params.pixelSel i = [n, m])
    (hskip : regIndex? n = none ∨ regIndex? m = none → Reports .regRange i s)
    (hok : ∀ d b, regIndex? n = some d → regIndex? m = some b → Reports .ok i s) : ReportsDue i s := by
  cases hn : regIndex? n with
  | none => exact ⟨.regRange, statusDue_regRange hi.mode (by simp [hidx]) (regIndex?_eq_none hn), hskip (.inl hn)⟩
  | some d =>
    cases hm : regIndex? m with
    | none => exact ⟨.regRange, statusDue_regRange hi.mode (by simp [hidx]) (regIndex?_eq_none hm), hskip (.inr hm)⟩
    | some b =>
      exact ⟨.ok, hi.statusDue_ok (by simpa [hidx] using ⟨regIndex?_lt hn, regIndex?_lt hm⟩), hok d b hn hm⟩

end

/-! The instructions, by the meaning they share. -/

theorem reportsDue_move {i : Instr} {rd : Byte} {v : Word} (hi : RegistersOnly i)
    (hidx : ∀ sel, checkedIndices sel i = [rd.toNat]) (he : ∀ s, exec i s = moveTo rd v s) (s : State) :
    ReportsDue i s :=
  reportsDue_of_one_index hi (hidx _)
    (fun hnone => reports_of_skip fun es => by simp only [he, moveTo, hnone])
    fun d hd => reports_of_no_event (u := s.writeReg d v) (n := .seq) fun es => by
      simp only [he, moveTo, hd, State.writeReg_withEvents]

theorem reportsDue_shift {i : Instr} {f : Word → Nat → Word} {rd : Byte} {n : Word} (hi : RegistersOnly i)
    (hidx : ∀ sel, checkedIndices sel i = [rd.toNat]) (he : ∀ s, exec i s = execShift f rd n s) (s : State) :
    ReportsDue i s :=
  reportsDue_of_one_index hi (hidx _)
    (fun hnone => reports_of_skip fun es => by simp only [he, execShift, hnone])
    fun d hd => reports_of_no_event (u := (afterShift n s).writeReg d (shiftResult f (s.readReg d) n s)) (n := .seq)
      fun es => by
        simp only [he, execShift, hd, afterShift_withEvents, shiftResult_withEvents, State.readReg_withEvents,
          State.writeReg_withEvents]

theorem execBinary_of_invalid {f : Word → Word → Word} {rd rs : Byte}
    (h : regIndex? rd.toNat = none ∨ regIndex? rs.toNat = none) (s : State) :
    execBinary f rd rs s = .next (s.skip .regRange) := by
  rcases h with h | h
  · simp only [execBinary, h]
  · cases hd : regIndex? rd.toNat <;> simp only [execBinary, hd, h]

theorem reportsDue_binary {i : Instr} {f : Word → Word → Word} {rd rs : Byte} (hi : RegistersOnly i)
    (hidx : ∀ sel, checkedIndices sel i = [rd.toNat, rs.toNat]) (he : ∀ s, exec i s = execBinary f rd rs s) (s : State) :
    ReportsDue i s :=
  reportsDue_of_two_indices hi (hidx _)
    (fun hinvalid => reports_of_skip fun es => by rw [he, execBinary_of_invalid hinvalid])
    fun d b hd hb => reports_of_no_event (u := s.writeReg d (f (s.readReg d) (s.readReg b))) (n := .seq) fun es => by
      simp only [he, execBinary, hd, hb, State.readReg_withEvents, State.writeReg_withEvents]

theorem reportsDue_neg (rd : Byte) (s : State) : ReportsDue (.neg rd) s :=
  reportsDue_of_one_index ⟨rfl, rfl, rfl, fun _ => id⟩ rfl
    (fun hnone => reports_of_skip fun es => by simp only [exec, execNeg, hnone])
    fun d hd => reports_of_no_event (u := s.writeReg d (-(s.readReg d))) (n := .seq) fun es => by
      simp only [exec, execNeg, hd, State.readReg_withEvents, State.writeReg_withEvents]

theorem execCmp_of_invalid {ra rb : Byte} (h : regIndex? ra.toNat = none ∨ regIndex? rb.toNat = none) (s : State) :
    execCmp ra rb s = .next (s.skip .regRange) := by
  rcases h with h | h
  · simp only [execCmp, h]
  · cases ha : regIndex? ra.toNat <;> simp only [execCmp, ha, h]

theorem reportsDue_cmp (ra rb : Byte) (s : State) : ReportsDue (.cmp ra rb) s :=
  reportsDue_of_two_indices ⟨rfl, rfl, rfl, fun _ => id⟩ rfl
    (fun hinvalid => reports_of_skip fun es => by rw [exec, execCmp_of_invalid hinvalid])
    fun a b ha hb => reports_of_no_event (u := s.setZf (zeroFlagOf (s.readReg a) (s.readReg b))) (n := .seq) fun es => by
      simp only [exec, execCmp, ha, hb, State.readReg_withEvents, State.setZf_withEvents]

/-- UDIV's divisor is looked at once both indices name registers (R160). -/
theorem reportsDue_udiv (rd rs : Byte) (s : State) : ReportsDue (.udiv rd rs) s := by
  have hidx : checkedIndices s.params.pixelSel (.udiv rd rs) = [rd.toNat, rs.toNat] := rfl
  cases hd : regIndex? rd.toNat with
  | none =>
    exact ⟨.regRange, statusDue_regRange rfl (by simp [hidx]) (regIndex?_eq_none hd),
      reports_of_skip fun es => by simp only [exec, execUdiv, hd]⟩
  | some d =>
    cases hb : regIndex? rs.toNat with
    | none =>
      exact ⟨.regRange, statusDue_regRange rfl (by simp [hidx]) (regIndex?_eq_none hb),
        reports_of_skip fun es => by simp only [exec, execUdiv, hd, hb]⟩
    | some b =>
      have hpass : OperandsPass s (.udiv rd rs) :=
        ⟨rfl, by simpa [hidx] using ⟨regIndex?_lt hd, regIndex?_lt hb⟩, by simp [Instr.dataAddress], by simp [Instr.jumpTarget]⟩
      have hrs : rs.toNat = b := regIndex?_eq_some hb
      by_cases hzero : s.readReg b = 0
      · exact ⟨.divZero, hpass.statusDue_divZero ⟨b, hrs, hzero⟩,
          reports_of_skip fun es => by
            simp only [exec, execUdiv, hd, hb]
            exact if_pos hzero⟩
      · have hdivisor : ¬ divisorZero s (.udiv rd rs) := by
          rintro ⟨b', hb', hzero'⟩
          exact hzero (Fin.ext (hrs.symm.trans hb') ▸ hzero')
        exact ⟨.ok, hpass.statusDue_ok hdivisor,
          reports_of_no_event (u := s.writeReg d (s.readReg d / s.readReg b)) (n := .seq) fun es => by
            simp only [exec, execUdiv, hd, hb]
            exact if_neg hzero⟩

/-- A register, then a data address: LOAD and STORE. -/
theorem reportsDue_of_index_and_address {s : State} {i : Instr} {n : Nat} {addr : Word} (hmode : i.modeOk = true)
    (hidx : checkedIndices s.params.pixelSel i = [n]) (haddress : i.dataAddress = some addr.toNat)
    (htarget : i.jumpTarget = none) (hdivisor : ¬ divisorZero s i)
    (hreg : regIndex? n = none → Reports .regRange i s)
    (hmem : ∀ d, regIndex? n = some d → memAddress? addr = none → Reports .memRange i s)
    (hok : ∀ d a, regIndex? n = some d → memAddress? addr = some a → Reports .ok i s) : ReportsDue i s := by
  cases hn : regIndex? n with
  | none => exact ⟨.regRange, statusDue_regRange hmode (by simp [hidx]) (regIndex?_eq_none hn), hreg hn⟩
  | some d =>
    have hindices : ∀ m ∈ checkedIndices s.params.pixelSel i, m < 8 := by simpa [hidx] using regIndex?_lt hn
    cases ha : memAddress? addr with
    | none =>
      exact ⟨.memRange, statusDue_memRange hmode hindices haddress (memAddress?_eq_none ha), hmem d hn ha⟩
    | some a =>
      have hpass : OperandsPass s i := ⟨hmode, hindices, by simpa [haddress] using memAddress?_lt ha, by simp [htarget]⟩
      exact ⟨.ok, hpass.statusDue_ok hdivisor, hok d a hn ha⟩

theorem reportsDue_load (rd : Byte) (addr : Word) (s : State) : ReportsDue (.load rd addr) s :=
  reportsDue_of_index_and_address rfl rfl rfl rfl id
    (fun hnone => reports_of_skip fun es => by simp only [exec, execLoad, hnone])
    (fun d hd hnone => reports_of_skip fun es => by simp only [exec, execLoad, hd, hnone])
    fun d a hd ha => reports_of_no_event (u := s.writeReg d (zeroExtendByte (s.readMem a))) (n := .seq) fun es => by
      simp only [exec, execLoad, hd, ha, State.readMem_withEvents, State.writeReg_withEvents]

theorem reportsDue_store (rs : Byte) (addr : Word) (s : State) : ReportsDue (.store rs addr) s :=
  reportsDue_of_index_and_address rfl rfl rfl rfl id
    (fun hnone => reports_of_skip fun es => by simp only [exec, execStore, hnone])
    (fun r hr hnone => reports_of_skip fun es => by simp only [exec, execStore, hr, hnone])
    fun r a hr ha => reports_of_no_event (u := s.writeMem a (lowByte (s.readReg r))) (n := .seq) fun es => by
      simp only [exec, execStore, hr, ha, State.readReg_withEvents, State.writeMem_withEvents]

/-- A jump target is the only guard of JMP and JE. -/
theorem reportsDue_of_target {s : State} {i : Instr} {target : Word} (hmode : i.modeOk = true)
    (hidx : checkedIndices s.params.pixelSel i = []) (haddress : i.dataAddress = none)
    (htarget : i.jumpTarget = some target.toNat) (hdivisor : ¬ divisorZero s i)
    (hskip : jumpTarget? target = none → Reports .targetRange i s)
    (hok : ∀ t, jumpTarget? target = some t → Reports .ok i s) : ReportsDue i s := by
  have hindices : ∀ n ∈ checkedIndices s.params.pixelSel i, n < 8 := by simp [hidx]
  cases ht : jumpTarget? target with
  | none =>
    exact ⟨.targetRange, statusDue_targetRange hmode hindices haddress htarget (jumpTarget?_eq_none ht), hskip ht⟩
  | some t =>
    obtain ⟨-, hlt⟩ := jumpTarget?_eq_some ht
    have hpass : OperandsPass s i := ⟨hmode, hindices, by simp [haddress], by simpa [htarget] using hlt⟩
    exact ⟨.ok, hpass.statusDue_ok hdivisor, hok t ht⟩

theorem reportsDue_jmp (target : Word) (s : State) : ReportsDue (.jmp target) s :=
  reportsDue_of_target rfl rfl rfl rfl id
    (fun hnone => reports_of_skip fun es => by simp only [exec, execJmp, hnone])
    fun t ht => reports_of_no_event (u := s) (n := .jump t) fun es => by simp only [exec, execJmp, ht]

theorem reportsDue_je (target : Word) (s : State) : ReportsDue (.je target) s :=
  reportsDue_of_target rfl rfl rfl rfl id
    (fun hnone => reports_of_skip fun es => by simp only [exec, execJe, hnone])
    fun t ht => reports_of_no_event (u := s) (n := if s.zf then .jump t else .seq) fun es => by
      simp only [exec, execJe, ht]
      rfl

/-- PRINT's mode decides whether its index is that of a register or of a memory cell (R193). -/
theorem reportsDue_print (mode : Byte) (index : Word) (s : State) : ReportsDue (.print mode index) s := by
  by_cases hreg : mode = 0
  · subst hreg
    exact reportsDue_of_one_index ⟨rfl, rfl, rfl, fun _ => id⟩ rfl
      (fun hnone => reports_of_skip fun es => by simp only [exec, execPrint, if_true, hnone])
      fun r hr => reports_of_emit (e := .printReg r (s.readReg r)) fun es => by
        simp only [exec, execPrint, if_true, hr, State.readReg_withEvents, State.emit_withEvents]
  by_cases hmem : mode = 1
  · subst hmem
    have hindices : ∀ n ∈ checkedIndices s.params.pixelSel (.print 1 index), n < 8 := fun n hn => by cases hn
    cases ha : memAddress? index with
    | none =>
      exact ⟨.memRange, statusDue_memRange rfl hindices rfl (memAddress?_eq_none ha),
        reports_of_skip fun es => by simp only [exec, execPrint, if_neg hreg, if_true, ha]⟩
    | some a =>
      have hpass : OperandsPass s (.print 1 index) :=
        ⟨rfl, hindices, by simpa [Instr.dataAddress] using memAddress?_lt ha, fun _ h => by cases h⟩
      exact ⟨.ok, hpass.statusDue_ok id, reports_of_emit (e := .printMem a (s.readMem a)) fun es => by
        simp only [exec, execPrint, if_neg hreg, if_true, ha, State.readMem_withEvents, State.emit_withEvents]⟩
  · exact ⟨.modeInvalid, statusDue_modeInvalid (by simp only [Instr.modeOk, decide_eq_false hreg, decide_eq_false hmem, Bool.or_self]),
      reports_of_skip fun es => by simp only [exec, execPrint, if_neg hreg, if_neg hmem]⟩

theorem regIndex?_mod (n : Nat) : ∃ d, regIndex? (n % 8) = some d :=
  ⟨_, regIndex?_of_lt (Nat.mod_lt n (by decide))⟩

/-- Under PIXEL_SEL `check` the selectors are register indices like any other; under `mask3` they name registers whatever
they hold (R195). -/
theorem reportsDue_tdrawPixel (xsel ysel ch : Byte) (s : State) : ReportsDue (.tdrawPixel xsel ysel ch) s := by
  have hi : RegistersOnly (.tdrawPixel xsel ysel ch) := ⟨rfl, rfl, rfl, fun _ => id⟩
  have hok {x y : Fin 8} (hx : pixelReg? s.params.pixelSel xsel = some x) (hy : pixelReg? s.params.pixelSel ysel = some y) :
      Reports .ok (.tdrawPixel xsel ysel ch) s :=
    reports_of_emit (e := .pixel (s.readReg x) (s.readReg y) ch) fun es => by
      simp only [exec, execTdrawPixel, State.withEvents_params, hx, hy, State.readReg_withEvents, State.emit_withEvents]
  cases hsel : s.params.pixelSel with
  | check =>
    rw [hsel] at hok
    refine reportsDue_of_two_indices (n := xsel.toNat) (m := ysel.toNat) hi (by rw [hsel]; rfl) ?_ fun x y => hok
    intro hinvalid
    refine reports_of_skip fun es => ?_
    simp only [exec, execTdrawPixel, State.withEvents_params, hsel, pixelReg?]
    rcases hinvalid with hx | hy
    · simp only [hx]
    · cases regIndex? xsel.toNat <;> simp only [hy]
  | mask3 =>
    rw [hsel] at hok
    obtain ⟨x, hx⟩ := regIndex?_mod xsel.toNat
    obtain ⟨y, hy⟩ := regIndex?_mod ysel.toNat
    exact reportsDue_of_no_index hi (by rw [hsel]; rfl) (hok hx hy)

/-- Every instruction, from every state. -/
theorem exec_reportsDue (i : Instr) (s : State) : ReportsDue i s := by
  cases i with
  | nop =>
    exact reportsDue_of_no_index ⟨rfl, rfl, rfl, fun _ => id⟩ rfl
      (reports_of_no_event (u := s) (n := .seq) fun _ => rfl)
  | halt =>
    exact reportsDue_of_no_index ⟨rfl, rfl, rfl, fun _ => id⟩ rfl
      (reports_of_no_event (u := s.setRunning false) (n := .stop) fun _ => rfl)
  | tdrawClear =>
    exact reportsDue_of_no_index ⟨rfl, rfl, rfl, fun _ => id⟩ rfl (reports_of_emit (e := .clear) fun _ => rfl)
  | mov rd imm => exact reportsDue_move (v := imm) ⟨rfl, rfl, rfl, fun _ => id⟩ (fun _ => rfl) (fun _ => rfl) s
  | movz rd imm => exact reportsDue_move (v := literal16 imm) ⟨rfl, rfl, rfl, fun _ => id⟩ (fun _ => rfl) (fun _ => rfl) s
  | movn rd imm => exact reportsDue_move (v := ~~~imm) ⟨rfl, rfl, rfl, fun _ => id⟩ (fun _ => rfl) (fun _ => rfl) s
  | add rd rs | sub rd rs | and rd rs | orr rd rs | eor rd rs | mul rd rs =>
    exact reportsDue_binary ⟨rfl, rfl, rfl, fun _ => id⟩ (fun _ => rfl) (fun _ => rfl) s
  | lsl rd n | lsr rd n => exact reportsDue_shift ⟨rfl, rfl, rfl, fun _ => id⟩ (fun _ => rfl) (fun _ => rfl) s
  | neg rd => exact reportsDue_neg rd s
  | udiv rd rs => exact reportsDue_udiv rd rs s
  | load rd addr => exact reportsDue_load rd addr s
  | store rs addr => exact reportsDue_store rs addr s
  | cmp ra rb => exact reportsDue_cmp ra rb s
  | jmp target => exact reportsDue_jmp target s
  | je target => exact reportsDue_je target s
  | print mode index => exact reportsDue_print mode index s
  | tdrawPixel xsel ysel ch => exact reportsDue_tdrawPixel xsel ysel ch s

/-- Settles O27: the trace of `s` is one of those for which `i` reports the status due. -/
theorem firstFailingGuardIsReported : Obligations.FirstFailingGuardIsReported := by
  intro i s t h
  obtain ⟨c, hdue, u, n, new, hexec⟩ := exec_reportsDue i s
  cases h.symm.trans (hexec s.events)
  exact ⟨c, rfl, hdue⟩

/-! The output trace is never read (R190). -/

/-- From `s` with any output trace so far, `m` answers one state, with the same events appended to that trace. -/
def IgnoresEvents (m : State → Host.Outcome State Fault Refusal) (s : State) : Prop :=
  ∃ (t : State) (new : List Event), ∀ es, m (s.withEvents es) = .next (t.withEvents (es ++ new))

theorem ignoresEvents_of_same {m : State → Host.Outcome State Fault Refusal} {s t : State}
    (h : ∀ es, m (s.withEvents es) = .next (t.withEvents es)) : IgnoresEvents m s :=
  ⟨t, [], fun es => by rw [List.append_nil, h es]⟩

theorem ignoresEvents_exec (i : Instr) (s : State) : IgnoresEvents (exec i) s := by
  obtain ⟨c, -, u, n, new, hexec⟩ := exec_reportsDue i s
  exact ⟨u.retire n c, new, fun es => by rw [hexec, State.retire_withEvents]⟩

theorem ignoresEvents_step (s : State) : IgnoresEvents step s := by
  cases he : s.engine with
  | halted => exact ignoresEvents_of_same fun es => haltedCoreChangesNothing (s.withEvents es) he
  | running =>
    by_cases hpc : s.pc.toNat < 1024
    · cases hdecode : decode (s.readSlot s.pc.toNat) with
      | ok i =>
        obtain ⟨t, new, hexec⟩ := ignoresEvents_exec i s
        exact ⟨t, new, fun es => (stepRunsDecodedInstr (s.withEvents es) i he hpc hdecode).trans (hexec es)⟩
      | error e =>
        exact ignoresEvents_of_same (t := s.raiseIllegalOpcode) fun es =>
          step_of_decode_error (s := s.withEvents es) he hpc hdecode
    · exact ignoresEvents_of_same (t := s.setEngine .halted) fun es =>
        endOfStoreHaltsBeforeFetch (s.withEvents es) he (Nat.le_of_not_lt hpc)

/-- Settles O24: `s` is itself with its own trace. -/
theorem eventsDoNotFeedBack : Obligations.EventsDoNotFeedBack := by
  intro s t es h
  obtain ⟨u, new, hstep⟩ := ignoresEvents_step s
  cases h.symm.trans (hstep s.events)
  exact ⟨new, rfl, hstep es⟩

end Sys2Proof.Machine

/-! SUPPORT. The move rules (41_move.md R140 to R142): how an instruction that writes one register ends, read as the rule of
R12 and R125, and the values MOVZ and MOVN write as numbers. -/

namespace Sys2Proof.Machine

/-- What the decoder builds for an opcode, as a rule about every word that holds it (R81, R82). -/
theorem encodedAs_opcode (o : Opcode) : EncodedAs o.toByte fun w => buildInstr o (wordR1 w) (wordR2 w) (wordImm w) :=
  fun _ h => decode_of_wordOpcode h

/-- An outcome that writes a register and goes on to the next slot, as the rules of single instructions speak of it. -/
theorem exists_next_writeReg {o : Host.Outcome State Fault Refusal} {s : State} {d : Fin 8} {v : Word}
    (h : o = .next ((s.writeReg d v).retire .seq .ok)) :
    ∃ t, o = .next t ∧ t.readReg d = v ∧ ChangesOnly { reg := some d } s t ∧ EndsSeq .ok s t :=
  ⟨_, h, by rw [State.readReg_retire, State.readReg_writeReg_self], (ChangesOnly.writeReg s d v).retire .seq .ok,
    endsSeq_retire rfl rfl .ok⟩

/-- An instruction guarded by its one register index alone: the index is below 8 or the instruction is skipped. -/
theorem oneRegisterRule_of_exec {i : Instr} {rd : Byte} {f : Word → Word}
    (hwrite : ∀ (s : State) (d : Fin 8), regIndex? rd.toNat = some d →
      exec i s = .next ((s.writeReg d (f (s.readReg d))).retire .seq .ok))
    (hskip : ∀ s : State, regIndex? rd.toNat = none → exec i s = .next (s.skip .regRange)) :
    OneRegisterRule i rd f := by
  intro s
  constructor
  · intro d hd
    exact exists_next_writeReg (hwrite s d (by rw [hd, regIndex?_fin]))
  · intro hge
    rw [hskip s (regIndex?_of_ge hge)]
    exact skips_skip s .regRange

theorem oneRegisterRule_move {i : Instr} {rd : Byte} {v : Word} (he : ∀ s, exec i s = moveTo rd v s) :
    OneRegisterRule i rd fun _ => v :=
  oneRegisterRule_of_exec (fun s d hd => by simp only [he, moveTo, hd]) fun s hnone => by simp only [he, moveTo, hnone]

/-! The values written, as numbers. -/

/-- The zero-extended low half is the remainder modulo 2^16 (R141). -/
theorem literal16_eq_ofNat (imm : Word) : literal16 imm = BitVec.ofNat 32 (imm.toNat % 2 ^ 16) := by
  apply BitVec.eq_of_toNat_eq
  simp [literal16]

/-- The complement of all 32 bits is the distance from the largest word (R142). -/
theorem not_eq_ofNat (imm : Word) : ~~~imm = BitVec.ofNat 32 (2 ^ 32 - 1 - imm.toNat) := by
  apply BitVec.eq_of_toNat_eq
  rw [BitVec.toNat_not, BitVec.toNat_ofNat, Nat.mod_eq_of_lt (by omega)]

/-- Settles O28: the meaning of MOV is that of a move of the immediate itself. -/
theorem movWritesImmediate : Obligations.MovWritesImmediate :=
  ⟨encodedAs_opcode .mov, fun _ _ => oneRegisterRule_move fun _ => rfl⟩

/-- Settles O29: a move of the low half, which is the remainder. -/
theorem movzWritesLowHalf : Obligations.MovzWritesLowHalf := by
  refine ⟨encodedAs_opcode .movz, fun rd imm => ?_⟩
  rw [← literal16_eq_ofNat]
  exact oneRegisterRule_move fun _ => rfl

/-- Settles O30: a move of the complement, which is the difference. -/
theorem movnWritesComplement : Obligations.MovnWritesComplement := by
  refine ⟨encodedAs_opcode .movn, fun rd imm => ?_⟩
  rw [← not_eq_ofNat]
  exact oneRegisterRule_move fun _ => rfl

end Sys2Proof.Machine

/-! SUPPORT. The ALU rules (42_alu.md R150 to R161): what the shared two-register operation and the shared shift answer, read
as the rule of R12 and R125, and the values they write as numbers. -/

namespace Sys2Proof.Machine

/-! The two-register operations (R152 to R156, R159, R160). -/

theorem execBinary_of_valid {f : Word → Word → Word} {rd rs : Byte} {d b : Fin 8} (hd : rd.toNat = d) (hb : rs.toNat = b)
    (s : State) : execBinary f rd rs s = .next ((s.writeReg d (f (s.readReg d) (s.readReg b))).retire .seq .ok) := by
  simp only [execBinary, hd, hb, regIndex?_fin]

/-- One of two indices out of range, as the operand forms report it. -/
theorem regIndex?_eq_none_of_ge_or_ge {n m : Nat} (h : 8 ≤ n ∨ 8 ≤ m) : regIndex? n = none ∨ regIndex? m = none :=
  h.imp regIndex?_of_ge regIndex?_of_ge

/-- An opcode whose meaning is the shared two-register operation `f`, where `g` says as numbers what `f` computes. -/
theorem twoRegisterRule_binary {v : Byte} {mk : Byte → Byte → Instr} (f : Word → Word → Word) {g : Word → Word → Word}
    (hdecode : EncodedAs v fun w => mk (wordR1 w) (wordR2 w))
    (he : ∀ rd rs s, exec (mk rd rs) s = execBinary f rd rs s) (hvalue : ∀ a b, f a b = g a b) :
    TwoRegisterRule v mk g := by
  refine ⟨hdecode, fun rd rs s => ⟨fun d b hd hb => ?valid, fun hge => ?skipped⟩⟩
  case valid =>
    rw [← hvalue]
    exact exists_next_writeReg ((he rd rs s).trans (execBinary_of_valid hd hb s))
  case skipped =>
    rw [he, execBinary_of_invalid (regIndex?_eq_none_of_ge_or_ge hge)]
    exact skips_skip s .regRange

theorem execUdiv_of_valid {rd rs : Byte} {d b : Fin 8} (hd : rd.toNat = d) (hb : rs.toNat = b) (s : State) :
    execUdiv rd rs s =
      if s.readReg b = 0 then .next (s.skip .divZero)
      else .next ((s.writeReg d (s.readReg d / s.readReg b)).retire .seq .ok) := by
  simp only [execUdiv, hd, hb, regIndex?_fin]

theorem execUdiv_of_invalid {rd rs : Byte} (h : regIndex? rd.toNat = none ∨ regIndex? rs.toNat = none) (s : State) :
    execUdiv rd rs s = .next (s.skip .regRange) := by
  rcases h with h | h
  · simp only [execUdiv, h]
  · cases hd : regIndex? rd.toNat <;> simp only [execUdiv, hd, h]

/-! The shifts (R157, R158), by the value of SHIFT_GE32. -/

theorem shiftResult_of_zero {f : Word → Nat → Word} {v n : Word} {s : State} (hn : 32 ≤ n.toNat)
    (hp : s.params.shiftGe32 = .zero) : shiftResult f v n s = 0 := by
  simp [shiftResult, Config.wordBits, Nat.not_lt.mpr hn, hp]

theorem shiftResult_of_mask5 {f : Word → Nat → Word} {v n : Word} {s : State} (hn : 32 ≤ n.toNat)
    (hp : s.params.shiftGe32 = .mask5) : shiftResult f v n s = f v (n.toNat % 32) := by
  simp [shiftResult, Config.wordBits, Nat.not_lt.mpr hn, hp]

theorem afterShift_of_draw {n : Word} {s : State} (hn : 32 ≤ n.toNat) (hp : s.params.shiftGe32 = .draw) :
    afterShift n s = s.countDraw := by
  simp [afterShift, Config.wordBits, Nat.not_lt.mpr hn, hp]

theorem afterShift_of_ne_draw {n : Word} {s : State} (hp : s.params.shiftGe32 ≠ .draw) : afterShift n s = s :=
  (afterShift_cases n s).resolve_right fun ⟨_, hdraw, _⟩ => hp hdraw

/-- A counted free value adds to an effect that it may change the count. -/
theorem ChangesOnly.of_countDraw {e : Effect} {s t : State} (h : ChangesOnly e s.countDraw t) :
    ChangesOnly { e with draws := true } s t where
  regs := h.regs
  mem := h.mem
  slots := h.slots
  zf := h.zf
  running := h.running
  fault := h.fault
  events := h.events
  params := h.params
  draws hd := by cases hd

section
variable {f : Word → Nat → Word} {rd : Byte} {n v : Word} {d : Fin 8} {s : State}

theorem execShift_of_valid (hd : rd.toNat = d) :
    execShift f rd n s =
      .next (((afterShift n s).writeReg d (shiftResult f (s.readReg d) n s)).retire .seq .ok) := by
  simp only [execShift, hd, regIndex?_fin]

theorem execShift_of_invalid (h : regIndex? rd.toNat = none) : execShift f rd n s = .next (s.skip .regRange) := by
  simp only [execShift, h]

/-- A shift that takes no free value only writes its result. -/
theorem execShift_writes_result (hd : rd.toNat = d) (hstate : afterShift n s = s)
    (hresult : shiftResult f (s.readReg d) n s = v) :
    ∃ t, execShift f rd n s = .next t ∧ t.readReg d = v ∧ ChangesOnly { reg := some d } s t ∧ EndsSeq .ok s t :=
  exists_next_writeReg (by rw [execShift_of_valid hd, hstate, hresult])

/-- A shift that takes a free value writes its register and counts the value taken. -/
theorem execShift_draws (hd : rd.toNat = d) (hn : 32 ≤ n.toNat) (hp : s.params.shiftGe32 = .draw) :
    ∃ t, execShift f rd n s = .next t ∧ ChangesOnly { reg := some d, draws := true } s t ∧ EndsSeq .ok s t := by
  refine ⟨_, execShift_of_valid hd, ?_⟩
  rw [afterShift_of_draw hn hp]
  exact ⟨((ChangesOnly.writeReg s.countDraw d _).retire .seq .ok).of_countDraw, endsSeq_retire rfl rfl .ok⟩

end

/-- An opcode whose meaning is the shared shift by `f`, where `g` says as numbers what `f` computes. -/
theorem shiftRule_shift {v : Byte} {mk : Byte → Word → Instr} (f : Word → Nat → Word) {g : Word → Nat → Word}
    (hdecode : EncodedAs v fun w => mk (wordR1 w) (wordImm w))
    (he : ∀ rd n s, exec (mk rd n) s = execShift f rd n s) (hvalue : ∀ a k, f a k = g a k) :
    ShiftRule v mk g := by
  refine ⟨hdecode, fun rd n s => ?_⟩
  rw [he]
  simp only [← hvalue]
  refine ⟨fun d hd hn => ?below, fun d hd hn hp => ?zero, fun d hd hn hp => ?mask5, fun d hd hn hp => ?draw,
    fun hge => ?skipped⟩
  case below => exact execShift_writes_result hd (afterShift_of_lt hn) (shiftResult_of_lt hn)
  case zero => exact execShift_writes_result hd (afterShift_of_ne_draw (by simp [hp])) (shiftResult_of_zero hn hp)
  case mask5 => exact execShift_writes_result hd (afterShift_of_ne_draw (by simp [hp])) (shiftResult_of_mask5 hn hp)
  case draw => exact execShift_draws hd hn hp
  case skipped =>
    rw [execShift_of_invalid (regIndex?_of_ge hge)]
    exact skips_skip s .regRange

/-! The values written, as numbers. -/

theorem mul_eq_ofNat (a b : Word) : a * b = BitVec.ofNat 32 (a.toNat * b.toNat) := by
  rw [BitVec.ofNat_mul, BitVec.ofNat_toNat, BitVec.ofNat_toNat, BitVec.setWidth_eq, BitVec.setWidth_eq]

/-- The difference in the integers, negative or not, brought back modulo 2^32 (R150). -/
theorem sub_eq_ofInt (a b : Word) : a - b = BitVec.ofInt 32 ((a.toNat : Int) - b.toNat) := by
  apply BitVec.eq_of_toNat_eq
  rw [BitVec.toNat_sub, BitVec.toNat_ofInt]
  have ha := a.isLt
  have hb := b.isLt
  omega

/-- The distance to 2^32, which for the value 0 is 2^32 itself and wraps to 0 (R161). -/
theorem neg_eq_ofNat (v : Word) : -v = BitVec.ofNat 32 (2 ^ 32 - v.toNat) := by
  apply BitVec.eq_of_toNat_eq
  rw [BitVec.toNat_neg, BitVec.toNat_ofNat]

theorem shiftLeft_eq_ofNat (v : Word) (n : Nat) : shiftLeft v n = BitVec.ofNat 32 (v.toNat * 2 ^ n) := by
  apply BitVec.eq_of_toNat_eq
  rw [shiftLeft, BitVec.toNat_shiftLeft, BitVec.toNat_ofNat, Nat.shiftLeft_eq]

/-- Zeros enter at bit 31, so the result is the quotient rounded down (R158). -/
theorem shiftRight_eq_ofNat (v : Word) (n : Nat) : shiftRight v n = BitVec.ofNat 32 (v.toNat / 2 ^ n) := by
  apply BitVec.eq_of_toNat_eq
  have hlt : v.toNat / 2 ^ n < 2 ^ 32 := (Nat.div_le_self _ _).trans_lt v.isLt
  rw [shiftRight, BitVec.toNat_ushiftRight, Nat.shiftRight_eq_div_pow, BitVec.toNat_ofNat, Nat.mod_eq_of_lt hlt]

/-- Settles O31: the shared operation on the sum. -/
theorem addWrapsModulo : Obligations.AddWrapsModulo :=
  twoRegisterRule_binary (· + ·) (encodedAs_opcode .add) (fun _ _ _ => rfl) BitVec.add_def

/-- Settles O32: the shared operation on the difference. -/
theorem subWrapsModulo : Obligations.SubWrapsModulo :=
  twoRegisterRule_binary (· - ·) (encodedAs_opcode .sub) (fun _ _ _ => rfl) sub_eq_ofInt

/-- Settles O33: the shared operation on each of the three, which act on words bit by bit. -/
theorem bitwiseOperationsActPerBit : Obligations.BitwiseOperationsActPerBit :=
  ⟨twoRegisterRule_binary (· &&& ·) (encodedAs_opcode .and) (fun _ _ _ => rfl) fun _ _ => rfl,
    twoRegisterRule_binary (· ||| ·) (encodedAs_opcode .orr) (fun _ _ _ => rfl) fun _ _ => rfl,
    twoRegisterRule_binary (· ^^^ ·) (encodedAs_opcode .eor) (fun _ _ _ => rfl) fun _ _ => rfl⟩

/-- Settles O34: the shared shift, to the left. -/
theorem lslShiftsLeft : Obligations.LslShiftsLeft :=
  shiftRule_shift shiftLeft (encodedAs_opcode .lsl) (fun _ _ _ => rfl) shiftLeft_eq_ofNat

/-- Settles O35: the shared shift, to the right. -/
theorem lsrShiftsRight : Obligations.LsrShiftsRight :=
  shiftRule_shift shiftRight (encodedAs_opcode .lsr) (fun _ _ _ => rfl) shiftRight_eq_ofNat

/-- Settles O36: the shared operation on the product. -/
theorem mulKeepsLowWord : Obligations.MulKeepsLowWord :=
  twoRegisterRule_binary (· * ·) (encodedAs_opcode .mul) (fun _ _ _ => rfl) mul_eq_ofNat

/-- Settles O37: the indices are looked at before the divisor, and the divisor decides between the quotient and the skip. -/
theorem udivDividesOrSkips : Obligations.UdivDividesOrSkips := by
  refine ⟨encodedAs_opcode .udiv, fun rd rs s => ⟨fun d b hd hb hne => ?quotient, fun d b hd hb hzero => ?divZero,
    fun hge => ?regRange⟩⟩
  case quotient =>
    rw [← BitVec.udiv_def]
    exact exists_next_writeReg ((execUdiv_of_valid hd hb s).trans (if_neg hne))
  case divZero =>
    rw [exec, execUdiv_of_valid hd hb, if_pos hzero]
    exact skips_skip s .divZero
  case regRange =>
    rw [exec, execUdiv_of_invalid (regIndex?_eq_none_of_ge_or_ge hge)]
    exact skips_skip s .regRange

/-- Settles O38: NEG has one register index, and the value it writes is the distance to 2^32. -/
theorem negNegatesModulo : Obligations.NegNegatesModulo := by
  refine ⟨encodedAs_opcode .neg, fun rd => oneRegisterRule_of_exec (fun s d hd => ?_) fun s hnone => ?_⟩
  · simp only [exec, execNeg, hd, neg_eq_ofNat]
  · simp only [exec, execNeg, hnone]

end Sys2Proof.Machine

/-! SUPPORT. The load and store rules (43_loadstore.md R170, R171): the guard order the two share, what each answers with valid
operands, read as the rule of R12 and R125, and the values they move as numbers. -/

namespace Sys2Proof.Machine

/-- The register index is looked at before the data address: an address out of range is reported under a valid index only. -/
theorem skips_of_index_then_address {o : Host.Outcome State Fault Refusal} {s : State} {n : Nat} {addr : Word}
    (hreg : regIndex? n = none → o = .next (s.skip .regRange))
    (hmem : ∀ d, regIndex? n = some d → memAddress? addr = none → o = .next (s.skip .memRange)) :
    (n < 8 → 1024 ≤ addr.toNat → Skips .memRange s o) ∧ (8 ≤ n → Skips .regRange s o) := by
  constructor
  · intro hlt hge
    rw [hmem _ (regIndex?_of_lt hlt) (memAddress?_of_ge hge)]
    exact skips_skip s .memRange
  · intro hge
    rw [hreg (regIndex?_of_ge hge)]
    exact skips_skip s .regRange

theorem load_skips (rd : Byte) (addr : Word) (s : State) :
    (rd.toNat < 8 → 1024 ≤ addr.toNat → Skips .memRange s (exec (.load rd addr) s)) ∧
      (8 ≤ rd.toNat → Skips .regRange s (exec (.load rd addr) s)) :=
  skips_of_index_then_address (fun hnone => by simp only [exec, execLoad, hnone])
    fun d hd hnone => by simp only [exec, execLoad, hd, hnone]

theorem store_skips (rs : Byte) (addr : Word) (s : State) :
    (rs.toNat < 8 → 1024 ≤ addr.toNat → Skips .memRange s (exec (.store rs addr) s)) ∧
      (8 ≤ rs.toNat → Skips .regRange s (exec (.store rs addr) s)) :=
  skips_of_index_then_address (fun hnone => by simp only [exec, execStore, hnone])
    fun r hr hnone => by simp only [exec, execStore, hr, hnone]

/-- An outcome that writes a cell and goes on to the next slot, as the rules of single instructions speak of it. -/
theorem exists_next_writeMem {o : Host.Outcome State Fault Refusal} {s : State} {a : Nat} {v : Byte}
    (h : o = .next ((s.writeMem a v).retire .seq .ok)) :
    ∃ t, o = .next t ∧ t.readMem a = v ∧ ChangesOnly { cell := some a } s t ∧ EndsSeq .ok s t :=
  ⟨_, h, by simp [State.readMem_writeMem], (ChangesOnly.writeMem s a v).retire .seq .ok, endsSeq_retire rfl rfl .ok⟩

/-! The values moved, as numbers. -/

theorem zeroExtendByte_eq_ofNat (b : Byte) : zeroExtendByte b = BitVec.ofNat 32 b.toNat :=
  (BitVec.ofNat_toNat 32 b).symm

/-- The low byte is the remainder modulo 256 (R171). -/
theorem lowByte_eq_ofNat (v : Word) : lowByte v = BitVec.ofNat 8 (v.toNat % 256) := by
  apply BitVec.eq_of_toNat_eq
  simp [lowByte]

/-- Settles O39: under valid operands LOAD writes the byte read, whose zero extension is the byte as a number. -/
theorem loadReadsByteZeroExtended : Obligations.LoadReadsByteZeroExtended := by
  refine ⟨encodedAs_opcode .load, fun rd addr s => ⟨fun d hd haddr => ?valid, load_skips rd addr s⟩⟩
  case valid =>
    rw [← zeroExtendByte_eq_ofNat]
    exact exists_next_writeReg (exec_load_of_valid hd (memAddress?_of_lt haddr) s)

/-- Settles O40: under valid operands STORE writes the low byte to the one cell that the address form gives. -/
theorem storeWritesLowByte : Obligations.StoreWritesLowByte := by
  refine ⟨encodedAs_opcode .store, fun rs addr s =>
    ⟨fun r a hr ha => ⟨(memAddress?_eq_some ha).symm, ?valid⟩, fun haddr => ⟨_, memAddress?_of_lt haddr⟩,
      store_skips rs addr s⟩⟩
  case valid =>
    rw [← lowByte_eq_ofNat]
    exact exists_next_writeMem (exec_store_of_valid hr ha s)

end Sys2Proof.Machine

/-! SUPPORT. The compare and control-transfer rules (44_control.md R180 to R183): what CMP, JMP and JE answer on either side
of their guards, and the three ends of such an instruction read as the rules speak of them. -/

namespace Sys2Proof.Machine

/-! The ends: the flag is written, the jump is taken, the run goes on to the next slot with nothing written. -/

/-- An outcome that writes the zero flag and goes on to the next slot. -/
theorem exists_next_setZf {o : Host.Outcome State Fault Refusal} {s : State} {b : Bool}
    (h : o = .next ((s.setZf b).retire .seq .ok)) :
    ∃ t, o = .next t ∧ t.zf = b ∧ ChangesOnly { zf := true } s t ∧ EndsSeq .ok s t :=
  ⟨_, h, by rw [State.retire_zf, State.setZf_zf], (ChangesOnly.setZf s b).retire .seq .ok, endsSeq_retire rfl rfl .ok⟩

/-- An outcome that takes a jump and writes nothing. -/
theorem exists_next_jump {o : Host.Outcome State Fault Refusal} {s : State} {target : Word}
    (h : o = .next (s.retire (.jump target) .ok)) :
    ∃ t, o = .next t ∧ ChangesOnly {} s t ∧ EndsJump target s t :=
  ⟨_, h, (ChangesOnly.none s).retire (.jump target) .ok, endsJump_retire s target⟩

/-- An outcome that goes on to the next slot and writes nothing. -/
theorem exists_next_seq {o : Host.Outcome State Fault Refusal} {s : State} (h : o = .next (s.retire .seq .ok)) :
    ∃ t, o = .next t ∧ ChangesOnly {} s t ∧ EndsSeq .ok s t :=
  ⟨_, h, (ChangesOnly.none s).retire .seq .ok, endsSeq_retire rfl rfl .ok⟩

/-! What each instruction answers, by its guard. -/

theorem zeroFlagOf_eq_true_iff (a b : Word) : zeroFlagOf a b = true ↔ a = b := decide_eq_true_iff

theorem execCmp_of_valid {ra rb : Byte} {a b : Fin 8} (ha : ra.toNat = a) (hb : rb.toNat = b) (s : State) :
    execCmp ra rb s = .next ((s.setZf (zeroFlagOf (s.readReg a) (s.readReg b))).retire .seq .ok) := by
  simp only [execCmp, ha, hb, regIndex?_fin]

theorem execJmp_of_lt {target : Word} (h : target.toNat < 1024) (s : State) :
    execJmp target s = .next (s.retire (.jump target) .ok) := by
  simp only [execJmp, jumpTarget?_of_lt h]

theorem execJmp_of_ge {target : Word} (h : 1024 ≤ target.toNat) (s : State) :
    execJmp target s = .next (s.skip .targetRange) := by
  simp only [execJmp, jumpTarget?_of_ge h]

theorem execJe_of_lt {target : Word} (h : target.toNat < 1024) (s : State) :
    execJe target s = .next (s.retire (if s.zf then .jump target else .seq) .ok) := by
  simp only [execJe, jumpTarget?_of_lt h]

/-- The target is checked before the flag is looked at. -/
theorem execJe_of_ge {target : Word} (h : 1024 ≤ target.toNat) (s : State) :
    execJe target s = .next (s.skip .targetRange) := by
  simp only [execJe, jumpTarget?_of_ge h]

/-- Settles O42: with valid indices CMP writes the comparison to zf, which is 1 exactly under equality; otherwise it is
skipped. -/
theorem cmpSetsZeroFlag : Obligations.CmpSetsZeroFlag := by
  refine ⟨encodedAs_opcode .cmp, fun ra rb s => ⟨fun a b ha hb => ?valid, fun hge => ?skipped⟩⟩
  case valid =>
    obtain ⟨t, hnext, hzf, hframe, hend⟩ := exists_next_setZf (execCmp_of_valid ha hb s)
    exact ⟨t, hnext, by rw [hzf, zeroFlagOf_eq_true_iff], hframe, hend⟩
  case skipped =>
    rw [exec, execCmp_of_invalid (regIndex?_eq_none_of_ge_or_ge hge)]
    exact skips_skip s .regRange

/-- Settles O43: the jump is taken below 1024 and skipped from there on. -/
theorem jmpGoesToTarget : Obligations.JmpGoesToTarget := by
  refine ⟨encodedAs_opcode .jmp, fun target s => ⟨fun hlt => ?taken, fun hge => ?skipped⟩⟩
  case taken => exact exists_next_jump (execJmp_of_lt hlt s)
  case skipped =>
    rw [exec, execJmp_of_ge hge]
    exact skips_skip s .targetRange

/-- Settles O44: under a valid target the flag decides between the jump and the next slot. -/
theorem jeJumpsOnZeroFlag : Obligations.JeJumpsOnZeroFlag := by
  refine ⟨encodedAs_opcode .je, fun target s => ⟨fun hlt hzf => ?taken, fun hlt hzf => ?notTaken, fun hge => ?skipped⟩⟩
  case taken => exact exists_next_jump (by rw [exec, execJe_of_lt hlt, hzf, if_pos rfl])
  case notTaken => exact exists_next_seq (by rw [exec, execJe_of_lt hlt, hzf, if_neg Bool.false_ne_true])
  case skipped =>
    rw [exec, execJe_of_ge hge]
    exact skips_skip s .targetRange

end Sys2Proof.Machine

/-! SUPPORT. The system rules (45_system.md R190 to R195): which effects send an event, what each output instruction answers on
either side of its guards, and the selectors of TDRAW_PIXEL as bits of the word. -/

namespace Sys2Proof.Machine

/-! Who sends an output event (R190). -/

theorem EffectOf.events_eq_or_sent {s u : State} {i : Instr} {n : NextPc} (h : EffectOf s i u n) :
    u.events = s.events ∨ (sendsEvent i = true ∧ ∃ e, u.events = s.events ++ [e]) := by
  cases h with
  | event e hi => exact .inr ⟨hi, e, rfl⟩
  | reg d v hi hs => rcases hs with rfl | rfl <;> exact .inl rfl
  | store | cmp | jump | none | halt => exact .inl rfl

/-- Settles O22: a changed trace was changed by an effect, and one on the trace is the single event of an output
instruction. -/
theorem atMostOneEventPerStep : Obligations.AtMostOneEventPerStep := by
  intro s t h
  by_cases hsame : t.events = s.events
  · exact .inl hsame
  · obtain ⟨i, u, n, hi, heffect, htu⟩ :=
      step_change_is_effect State.events State.retire_events (fun _ => rfl) (fun _ => rfl) h hsame
    rcases heffect.events_eq_or_sent with hkept | ⟨hsends, e, hsent⟩
    · exact absurd (htu.trans hkept) hsame
    · exact .inr ⟨i, e, hi, hsends, htu.trans hsent⟩

/-! The ends: the event is sent and the run goes on, or the run stops. -/

/-- An outcome that sends an event and goes on to the next slot. -/
theorem exists_next_emit {o : Host.Outcome State Fault Refusal} {s : State} {e : Event}
    (h : o = .next ((s.emit e).retire .seq .ok)) :
    ∃ t, o = .next t ∧ ChangesOnly { event := some e } s t ∧ EndsSeq .ok s t :=
  ⟨_, h, (ChangesOnly.emit s e).retire .seq .ok, endsSeq_retire rfl rfl .ok⟩

/-- With `running` cleared, halt detection halts the engine wherever the pc is (R127). -/
theorem State.retire_engine_of_not_running {s : State} (h : s.running = false) (n : NextPc) (c : Status) :
    (s.retire n c).engine = .halted := by
  simp [State.retire_engine, h]

/-! What PRINT and TDRAW_PIXEL answer, by their guards (R193, R195). -/

theorem memAddress?_of_toNat_eq {imm : Word} {a : Fin 1024} (h : imm.toNat = a) : memAddress? imm = some a := by
  rw [memAddress?_of_lt (h ▸ a.isLt)]
  exact congrArg some (Fin.ext h)

theorem execPrint_register {index : Word} {i : Fin 8} (h : index.toNat = i) (s : State) :
    execPrint 0 index s = .next ((s.emit (.printReg i (s.readReg i))).retire .seq .ok) := by
  simp only [execPrint, if_true, h, regIndex?_fin]

theorem execPrint_register_of_ge {index : Word} (h : 8 ≤ index.toNat) (s : State) :
    execPrint 0 index s = .next (s.skip .regRange) := by
  simp only [execPrint, if_true, regIndex?_of_ge h]

theorem execPrint_cell {index : Word} {a : Fin 1024} (h : index.toNat = a) (s : State) :
    execPrint 1 index s = .next ((s.emit (.printMem a (s.readMem a))).retire .seq .ok) := by
  simp only [execPrint, if_neg (show (1 : Byte) ≠ 0 by decide), if_true, memAddress?_of_toNat_eq h]

theorem execPrint_cell_of_ge {index : Word} (h : 1024 ≤ index.toNat) (s : State) :
    execPrint 1 index s = .next (s.skip .memRange) := by
  simp only [execPrint, if_neg (show (1 : Byte) ≠ 0 by decide), if_true, memAddress?_of_ge h]

theorem execPrint_of_invalid_mode {mode : Byte} (h : 2 ≤ mode.toNat) (index : Word) (s : State) :
    execPrint mode index s = .next (s.skip .modeInvalid) := by
  have hreg : mode ≠ 0 := by bv_omega
  have hmem : mode ≠ 1 := by bv_omega
  simp only [execPrint, if_neg hreg, if_neg hmem]

section
variable {xsel ysel : Byte} {s : State}

/-- Once both selectors name a register, however PIXEL_SEL reads them. -/
theorem execTdrawPixel_of_valid {x y : Fin 8} (hx : pixelReg? s.params.pixelSel xsel = some x)
    (hy : pixelReg? s.params.pixelSel ysel = some y) (ch : Byte) :
    execTdrawPixel xsel ysel ch s = .next ((s.emit (.pixel (s.readReg x) (s.readReg y) ch)).retire .seq .ok) := by
  simp only [execTdrawPixel, hx, hy]

theorem execTdrawPixel_of_invalid
    (h : pixelReg? s.params.pixelSel xsel = none ∨ pixelReg? s.params.pixelSel ysel = none) (ch : Byte) :
    execTdrawPixel xsel ysel ch s = .next (s.skip .regRange) := by
  rcases h with hx | hy
  · simp only [execTdrawPixel, hx]
  · cases hx : pixelReg? s.params.pixelSel xsel <;> simp only [execTdrawPixel, hx, hy]

end

/-! The fields of TDRAW_PIXEL, which lie in the immediate, as bits of the word (R85). -/

/-- A field of the immediate lies 32 bits further up in the word (R81). -/
theorem extractLsb'_wordImm (w : InstrWord) {lo n : Nat} (h : lo + n ≤ 32) :
    (wordImm w).extractLsb' lo n = w.extractLsb' (32 + lo) n := by
  apply BitVec.eq_of_getLsbD_eq
  intro k hk
  have hlo : lo + k < 32 := by omega
  simp only [wordImm, BitVec.getLsbD_extractLsb', hlo, decide_true, Bool.true_and, Nat.add_assoc]

/-- Settles O45: NOP goes on to the next slot and writes nothing. -/
theorem nopChangesOnlyPc : Obligations.NopChangesOnlyPc :=
  ⟨encodedAs_opcode .nop, fun _ => exists_next_seq rfl⟩

/-- Settles O46: HALT leaves the pc and clears the flag that halt detection looks at. -/
theorem haltStopsTheRun : Obligations.HaltStopsTheRun := by
  refine ⟨encodedAs_opcode .halt, fun s => ⟨_, rfl, ?running, ?pc, ?engine, ?status, ?frame⟩⟩
  case running => rw [State.retire_running, State.setRunning_running]
  case pc => rw [State.retire_pc, State.advance_stop_pc, State.setRunning_pc]
  case engine => exact State.retire_engine_of_not_running rfl .stop .ok
  case status => exact State.retire_status _ .stop .ok
  case frame => exact (ChangesOnly.setRunning s false).retire .stop .ok

/-- Settles O47: the mode says whether the index is a register's or a cell's, and the index is checked against the bound of
that mode. -/
theorem printEmitsRegisterOrCell : Obligations.PrintEmitsRegisterOrCell := by
  refine ⟨encodedAs_opcode .print, fun mode index s => ⟨?register, ?cell, ?regRange, ?memRange, ?modeInvalid⟩⟩
  case register =>
    rintro i rfl hi
    exact exists_next_emit (execPrint_register hi s)
  case cell =>
    rintro a rfl ha
    exact exists_next_emit (execPrint_cell ha s)
  case regRange =>
    rintro rfl hge
    rw [exec, execPrint_register_of_ge hge]
    exact skips_skip s .regRange
  case memRange =>
    rintro rfl hge
    rw [exec, execPrint_cell_of_ge hge]
    exact skips_skip s .memRange
  case modeInvalid =>
    intro hge
    rw [exec, execPrint_of_invalid_mode hge]
    exact skips_skip s .modeInvalid

/-- Settles O48: TDRAW_CLEAR has no guard. -/
theorem tdrawClearEmitsClear : Obligations.TdrawClearEmitsClear :=
  ⟨encodedAs_opcode .tdrawClear, fun _ => exists_next_emit rfl⟩

/-- Settles O49: PIXEL_SEL decides which register a selector names and whether it can name none; the rest is the same. -/
theorem tdrawPixelEmitsPixel : Obligations.TdrawPixelEmitsPixel := by
  refine ⟨fun w hw => ?encoded, fun xsel ysel ch s => ⟨?check, ?regRange, ?mask3⟩⟩
  case encoded =>
    have hdecode := encodedAs_opcode .tdrawPixel w hw
    simpa only [buildInstr, immXsel, immYsel, immCh, extractLsb'_wordImm w, Nat.reduceAdd, Nat.reduceLeDiff] using hdecode
  case check | mask3 =>
    intro x y hsel hx hy
    exact exists_next_emit (execTdrawPixel_of_valid (by rw [hsel, pixelReg?, hx, regIndex?_fin])
      (by rw [hsel, pixelReg?, hy, regIndex?_fin]) ch)
  case regRange =>
    intro hsel hge
    rw [exec, execTdrawPixel_of_invalid (by rw [hsel]; exact regIndex?_eq_none_of_ge_or_ge hge)]
    exact skips_skip s .regRange

end Sys2Proof.Machine

/-! SUPPORT. The reset and run rules (70_reset_and_hazards.md R240 to R255): the power-on values, what a run start and the host's
commands do to a Halted core, how a run under fuel unfolds, and in which ways it ends. -/

namespace Sys2Proof.Machine

/-! Power-on and the run start (R240, R243). -/

/-- Settles O13: reset is power-on with the default parameters. -/
theorem powerOnMeetsInvariant : Obligations.PowerOnMeetsInvariant :=
  ⟨inv_powerOn {}, inv_powerOn⟩

/-- Settles O50: both stores list nothing, and an unlisted index reads 0. -/
theorem powerOnValues : Obligations.PowerOnValues :=
  ⟨fun i => Vector.getElem_replicate i.isLt, rfl, rfl, rfl, rfl, rfl, fun _ _ => rfl, fun _ _ => rfl⟩

/-- Settles O51: a run start writes the four fields of `State.runStart_eq` and no other. -/
theorem runStartKeepsRegistersAndMemory : Obligations.RunStartKeepsRegistersAndMemory := by
  intro s
  rw [State.runStart_eq]
  exact ⟨rfl, rfl, rfl, rfl, fun _ => rfl, fun _ => rfl, rfl, fun _ => rfl⟩

/-! The host's commands (R244, R248). -/

section
variable {s : State} {text : List Byte}

theorem State.hostLoad_of_assembles {ws : List InstrWord} (h : assembleText s.params text = some ws) :
    s.hostLoad text = .accepted (s.placeWords ws) .loaded := by
  simp only [State.hostLoad, h]

theorem State.hostLoad_of_refused (h : assembleText s.params text = none) :
    s.hostLoad text = .accepted s .loadRefused := by
  simp only [State.hostLoad, h]

end

/-- What a command leaves behind: the core as it was, the store filled by a load, or a run begun by a run start. -/
def HostEffect (s : State) (c : HostCommand) (t : State) : Prop :=
  t = s ∨ (∃ text ws, c = .load text ∧ assembleText s.params text = some ws ∧ t = s.placeWords ws) ∨
    (c = .run ∧ t = s.runStart)

theorem performHost_accepts (s : State) (c : HostCommand) :
    ∃ t r, s.performHost c = .accepted t r ∧ HostEffect s c t := by
  cases c with
  | regs | mem | loadUnopenable => exact ⟨s, _, rfl, .inl rfl⟩
  | run => exact ⟨s.runStart, .started, rfl, .inr (.inr ⟨rfl, rfl⟩)⟩
  | load text =>
    cases hws : assembleText s.params text with
    | none => exact ⟨s, _, State.hostLoad_of_refused hws, .inl rfl⟩
    | some ws => exact ⟨_, _, State.hostLoad_of_assembles hws, .inr (.inl ⟨text, ws, rfl, hws, rfl⟩)⟩

/-- Neither a load nor a run start writes a register, a memory cell or the zero flag. -/
theorem HostEffect.frame {s t : State} {c : HostCommand} (h : HostEffect s c t) :
    t.regs = s.regs ∧ t.mem = s.mem ∧ t.zf = s.zf := by
  rcases h with rfl | ⟨text, ws, -, -, rfl⟩ | ⟨-, rfl⟩ <;> exact ⟨rfl, rfl, rfl⟩

/-- Settles O52: the engine decides whether a command is performed, and a performed one has one of the three host effects. -/
theorem hostActsOnlyWhileHalted : Obligations.HostActsOnlyWhileHalted := by
  intro s c
  refine ⟨fun he => State.hostCommand_of_running he c, fun he => ?accepted, fun t r h => ?effect⟩
  case accepted =>
    obtain ⟨t, r, hperform, -⟩ := performHost_accepts s c
    exact ⟨t, r, (State.hostCommand_of_halted he c).trans hperform⟩
  case effect =>
    cases he : s.engine with
    | running => cases (State.hostCommand_of_running he c).symm.trans h
    | halted =>
      obtain ⟨t', r', hperform, heffect⟩ := performHost_accepts s c
      cases (h.symm.trans (State.hostCommand_of_halted he c)).trans hperform
      obtain ⟨hregs, hmem, hzf⟩ := heffect.frame
      exact ⟨hregs, hmem, hzf, heffect⟩

/-- The loader stops when the store is full (R101). -/
theorem assembleLines_length_le {p : Params} {room : Nat} {lines : List (List Byte)} {is : List Instr}
    (h : assembleLines p room lines = some is) : is.length ≤ room := by
  induction lines generalizing room is with
  | nil => cases h; exact Nat.zero_le room
  | cons line lines ih =>
    cases room with
    | zero => cases h; exact Nat.le_refl 0
    | succ room =>
      cases hline : assembleLine p line with
      | instr i =>
        simp only [assembleLines, hline] at h
        obtain ⟨rest, hrest, rfl⟩ := Option.map_eq_some_iff.mp h
        exact Nat.succ_le_succ (ih hrest)
      | fails =>
        simp only [assembleLines, hline] at h
        exact ih h
      | refused why => simp [assembleLines, hline] at h

theorem assembleText_length_le {p : Params} {text : List Byte} {ws : List InstrWord} (h : assembleText p text = some ws) :
    ws.length ≤ 1024 := by
  obtain ⟨is, his, rfl⟩ := Option.map_eq_some_iff.mp h
  rw [List.length_map]
  exact assembleLines_length_le his

/-- Words that fit are all placed. -/
theorem State.readSlot_placeWords_of_fit (s : State) {ws : List InstrWord} (h : ws.length ≤ 1024) (k : Nat) :
    (s.placeWords ws).readSlot k = ws.getD k 0 := by
  rw [State.readSlot_placeWords, List.take_of_length_le h]

/-- Settles O53: the assembled words fit, so a slot reads the word of its number, or 0 where the words have ended. -/
theorem hostLoadFillsStore : Obligations.HostLoadFillsStore := by
  intro s text ws he hws
  have hfit := assembleText_length_le hws
  have hload : s.hostCommand (.load text) = .accepted (s.placeWords ws) .loaded :=
    (State.hostCommand_of_halted he _).trans (State.hostLoad_of_assembles hws)
  refine ⟨hfit, s.placeWords ws, hload, rfl, fun k hk => ?placed, fun k hk => ?beyond⟩
  case placed => rw [s.readSlot_placeWords_of_fit hfit, List.getD_eq_getElem _ _ hk]
  case beyond => rw [s.readSlot_placeWords_of_fit hfit, List.getD_eq_default _ _ hk]

/-! A run under fuel (R245, R253). -/

section
variable {s : State}

theorem runToHalt_of_halted (h : s.engine = .halted) (n : Nat) : runToHalt n s = some s := by
  cases n <;> simp only [runToHalt, h, if_true]

theorem runToHalt_end_of_halted {t : State} {n : Nat} (he : s.engine = .halted) (h : runToHalt n s = some t) (k : Nat) :
    t.engine = .halted ∧ runToHalt (n + k) s = some t := by
  cases (runToHalt_of_halted he n).symm.trans h
  exact ⟨he, runToHalt_of_halted he (n + k)⟩

theorem runToHalt_zero_of_running (h : s.engine = .running) : runToHalt 0 s = none := by
  simp [runToHalt, h]

theorem runToHalt_succ_of_running {u : State} (h : s.engine = .running) (hstep : step s = .next u) (n : Nat) :
    runToHalt (n + 1) s = runToHalt n u := by
  simp [runToHalt, h, hstep]

end

/-- Settles O55, by induction on the fuel: a Halted core ends at once under any fuel, and a Running one goes on from its next
state with one fuel less. -/
theorem fuelExhaustionIsNoHalt : Obligations.FuelExhaustionIsNoHalt := by
  intro n k
  induction n with
  | zero =>
    intro s t h
    cases he : s.engine with
    | halted => exact runToHalt_end_of_halted he h k
    | running => cases (runToHalt_zero_of_running he).symm.trans h
  | succ n ih =>
    intro s t h
    cases he : s.engine with
    | halted => exact runToHalt_end_of_halted he h k
    | running =>
      obtain ⟨u, hstep, -⟩ := stepIsTotal s
      rw [runToHalt_succ_of_running he hstep] at h
      rw [Nat.add_right_comm, runToHalt_succ_of_running he hstep]
      exact ih u t h

/-! How a run ends (R255). -/

/-- No effect touches the engine: only the end of an instruction and the fault do (R42). -/
theorem EffectOf.engine_eq {s u : State} {i : Instr} {n : NextPc} (h : EffectOf s i u n) : u.engine = s.engine := by
  cases h with
  | reg d v hi hs => rcases hs with rfl | rfl <;> rfl
  | store | cmp | jump | none | event | halt => rfl

/-- Only HALT has the next-pc choice `stop` (R126), and every other effect keeps the run flag. -/
theorem EffectOf.is_halt_or_keeps_running {s u : State} {i : Instr} {n : NextPc} (h : EffectOf s i u n) :
    (i = .halt ∧ u = s.setRunning false ∧ n = .stop) ∨ u.running = s.running := by
  cases h with
  | halt => exact .inl ⟨rfl, rfl, rfl⟩
  | reg d v hi hs => rcases hs with rfl | rfl <;> exact .inr rfl
  | store | cmp | jump | none | event => exact .inr rfl

/-- Where an instruction ends with the run flag set and the pc in 0..1024, halt detection (R127) can only have seen slot
1024. -/
theorem State.retire_halted_at_end {u : State} {n : NextPc} {c : Status} (he : u.engine = .running)
    (hrunning : u.running = true) (hpc : (u.advance n).pc.toNat ≤ 1024) (hhalt : (u.retire n c).engine = .halted) :
    (u.retire n c).pc.toNat = 1024 := by
  rw [State.retire_pc]
  refine Nat.le_antisymm hpc (Nat.le_of_not_lt fun hlt => ?_)
  rw [State.retire_engine, if_pos ⟨hrunning, hlt⟩, he] at hhalt
  cases hhalt

/-- The ways of R255 in which an executed instruction ends the run: it was HALT, or the pc has reached slot 1024. -/
theorem exec_ends_run {i : Instr} {s t : State} (he : s.engine = .running) (hrunning : s.running = true)
    (hpc : s.pc.toNat < 1024) (h : exec i s = .next t) (hhalt : t.engine = .halted) :
    (i = .halt ∧ t.running = false ∧ t.pc = s.pc) ∨ (t.running = true ∧ t.pc.toNat = 1024) := by
  rcases exec_next_cases h with ⟨c, rfl⟩ | ⟨u, n, heffect, rfl⟩
  · exact .inr ⟨(s.retire_running .seq c).trans hrunning,
      State.retire_halted_at_end he hrunning (pc_succ_le hpc) hhalt⟩
  · rcases heffect.is_halt_or_keeps_running with ⟨rfl, rfl, rfl⟩ | hkept
    · exact .inl ⟨rfl, State.retire_running _ .stop .ok, State.retire_pc _ .stop .ok⟩
    · have hset := hkept.trans hrunning
      exact .inr ⟨(u.retire_running n .ok).trans hset,
        State.retire_halted_at_end (heffect.engine_eq.trans he) hset (heffect.next_pc_le hpc) hhalt⟩

/-- Settles O16: the invariant rules out the halt before a fetch, so the step executed an instruction, which keeps the fault
flag clear, or raised the fault. -/
theorem runEndsInOneOfThreeWays : Obligations.RunEndsInOneOfThreeWays := by
  intro s t hs he h hhalt
  rcases step_cases s with ⟨hidle, -⟩ | ⟨-, hge, -⟩ | ⟨i, hi, hpc, hexec⟩ | ⟨-, -, hw, hfault⟩
  · cases he.symm.trans hidle
  · exact absurd (hs.pc_lt he) hge.not_gt
  · have hnext := hexec.symm.trans h
    have hclear := (exec_fault_eq hnext).trans (hs.no_fault he)
    rcases exec_ends_run he (hs.running_set he) hpc hnext hhalt with ⟨rfl, hstop, hat⟩ | ⟨hset, hend⟩
    · exact .inl ⟨hi, hstop, hclear, hat⟩
    · exact .inr (.inl ⟨hset, hclear, hend⟩)
  · cases h.symm.trans hfault
    exact .inr (.inr ⟨rfl, hs.running_set he, rfl, hw⟩)

end Sys2Proof.Machine
